-- ==== Sys2Proof/Word.lean ====
section
/-! DEFINITION. The word types of the RIPTIDE-II (00_scope.md rules R4, R5, R7). -/

namespace Sys2Proof

/-- The 8-bit data path, registers and I/O bytes (R4). -/
abbrev Byte := BitVec 8

/-- A program address: `pc`, `ar` and the call-stack entries are 16 bits wide (R5, conflict C1).
Addresses count instruction words (R29). -/
abbrev Addr := BitVec 16

/-- An instruction word. Manual bit `k` of it is the bit of weight `2^(15-k)` (R7, R80). -/
abbrev IWord := BitVec 16

end Sys2Proof
end

