-- ==== Sys2Proof/Syntax.lean ====
section
/-! DEFINITION. The instruction set as syntax: operands (30_encoding.md rules R87, R88) and one
constructor for each of the 35 rows of spec/opcode_table.json (R102). -/

namespace Sys2Proof

/-- The two I/O banks (R34, R50). -/
inductive Bank where
  | left
  | right
deriving DecidableEq, Repr

/-- The eight general registers, octal 00 to 06 and 11 (R20, R21): all that a register
destination can name (R88). -/
inductive GReg where
  | aux
  | r1
  | r2
  | r3
  | r4
  | r5
  | r6
  | r11
deriving DecidableEq, Repr

/-- A register source: a general register, or the read-only register octal 10, OVF
(R25, R87). -/
inductive SReg where
  | gpr (r : GReg)
  | ovf
deriving DecidableEq, Repr

/-- A data field of a bank, `LIVn` or `RIVn`: the bank, and the manual bit number of the field's
least significant bit (R87, R88). -/
structure IvSel where
  bank : Bank
  bit  : BitVec 3
deriving DecidableEq, Repr

/-- The four data operations, operation codes 0 to 3 (R86, R126). -/
inductive DataOp where
  | move
  | add
  | and
  | xor
deriving DecidableEq, Repr

/-- The instruction forms (R102). Form letters: `r` a register, `a` the address register of a
bank, `v` a data field of a bank; `rot` is the rotate count R, `len` the length L whose value 0
stands for 8 (R81, R89). -/
inductive Instr where
  | moveRr (src : SReg) (rot : BitVec 3) (dst : GReg)
  | moveRa (src : SReg) (rot : BitVec 3) (dst : Bank)
  | moveRv (src : SReg) (len : BitVec 3) (dst : IvSel)
  | moveVr (src : IvSel) (len : BitVec 3) (dst : GReg)
  | moveVv (src : IvSel) (len : BitVec 3) (dst : IvSel)
  | moveVa (src : IvSel) (len : BitVec 3) (dst : Bank)
  | nop
  | addRr (src : SReg) (rot : BitVec 3) (dst : GReg)
  | addRa (src : SReg) (rot : BitVec 3) (dst : Bank)
  | addRv (src : SReg) (len : BitVec 3) (dst : IvSel)
  | addVv (src : IvSel) (len : BitVec 3) (dst : IvSel)
  | addVr (src : IvSel) (len : BitVec 3) (dst : GReg)
  | addVa (src : IvSel) (len : BitVec 3) (dst : Bank)
  | andRr (src : SReg) (rot : BitVec 3) (dst : GReg)
  | andRa (src : SReg) (rot : BitVec 3) (dst : Bank)
  | andRv (src : SReg) (len : BitVec 3) (dst : IvSel)
  | andVr (src : IvSel) (len : BitVec 3) (dst : GReg)
  | andVv (src : IvSel) (len : BitVec 3) (dst : IvSel)
  | andVa (src : IvSel) (len : BitVec 3) (dst : Bank)
  | xorRr (src : SReg) (rot : BitVec 3) (dst : GReg)
  | xorRa (src : SReg) (rot : BitVec 3) (dst : Bank)
  | xorRv (src : SReg) (len : BitVec 3) (dst : IvSel)
  | xorVr (src : IvSel) (len : BitVec 3) (dst : GReg)
  | xorVv (src : IvSel) (len : BitVec 3) (dst : IvSel)
  | xorVa (src : IvSel) (len : BitVec 3) (dst : Bank)
  | xecR (src : SReg) (imm : BitVec 8)
  | xecV (src : IvSel) (len : BitVec 3) (imm : BitVec 5)
  | nztR (src : SReg) (imm : BitVec 8)
  | nztV (src : IvSel) (len : BitVec 3) (imm : BitVec 5)
  | call (imm : BitVec 8)
  | ret
  | xmitR (dst : GReg) (imm : BitVec 8)
  | xmitA (dst : Bank) (imm : BitVec 8)
  | xmitV (dst : IvSel) (len : BitVec 3) (imm : BitVec 5)
  | jmp (target : BitVec 13)
deriving DecidableEq, Repr

end Sys2Proof
end

