-- ==== Sys2Proof/Config.lean ====
section
/-! DEFINITION. What the implementation or the platform fixes (00_scope.md section 4) and the values
the source leaves open. An `opaque` constant has no body: nothing can be proved of its value. -/

namespace Sys2Proof

/-- One access of the CPU to a bank's data bus, in the order it happens (20_memory.md rules R53,
R54, R58): the bank, the address on its address bus and the byte moved. -/
inductive IoEvent where
  | read (bank : Bank) (addr : Byte) (value : Byte)
  | write (bank : Bank) (addr : Byte) (value : Byte)
deriving DecidableEq, Repr

/-- `STACK_DEPTH`: the "8-level hardware call stack" (R4, R32). -/
def Config.stackDepth : Nat := 8

/-- `RESET_PC`, the parameter's default 0. PRESUMED (assumption log 2): R38 takes address 0 from
the 8X300. -/
def Config.resetPc : Addr := 0x0000#16

/-- The general registers after reset: unspecified, "never as zero" (R38, R39). A free value
(assumption log 1). -/
opaque Config.resetReg : GReg → Byte

/-- The overflow flag after reset: unspecified (R38). A free value (assumption log 1). -/
opaque Config.resetOvf : Bool

/-- The I/O address registers after reset: unspecified (R38). A free value (assumption log 1). -/
opaque Config.resetIva : Bank → Byte

/-- The I/O latches after reset: unspecified (R38). A free value (assumption log 1). -/
opaque Config.resetIvl : Bank → Byte

/-- `IODEV`: the byte the environment answers to a read of a bank at an address, after the
accesses seen so far (R53; 92_eei_decisions.md D19). A free value (assumption log 3). -/
opaque Config.iodev : List IoEvent → Bank → Byte → Byte

end Sys2Proof
end

