-- ==== Sys2Proof/Machine/State.lean ====
section
/-! DEFINITION. The state of the machine as plain data (10_state.md section 1, 20_memory.md), the
reasons a step can stop (60_exceptions.md rule R231), and the state after reset (R38, R260). -/

namespace Sys2Proof.Machine

/-- The general registers (R20). -/
structure Regs where
  aux : Byte
  r1  : Byte
  r2  : Byte
  r3  : Byte
  r4  : Byte
  r5  : Byte
  r6  : Byte
  r11 : Byte
deriving DecidableEq, Repr

/-- A byte for each bank: the address registers `iva` (R34), the latches `ivl` (R35, R36). -/
structure PerBank where
  left  : Byte
  right : Byte
deriving DecidableEq, Repr

/-- Program memory: `(address, word)` pairs (R50, R51). The unit is the word: the space has no
byte order (R59, D21; assumption log 5). -/
abbrev Memory := List (Nat × IWord)

/-- The levels of the two cache-controller inputs during one step, true for high (R62). -/
structure MissLevels where
  pMiss : Bool
  dMiss : Bool
deriving DecidableEq, Repr

/-- The machine. `sp` of the spec is the length of `stk` (R32; "only `stk[0..sp-1]` is state",
R203). -/
structure State where
  /-- AUX, R1 to R6, R11 (R20). -/
  regs  : Regs
  /-- The overflow flag, the carry of the last ADD (R24, R127). -/
  ovf   : Bool
  /-- The I/O address registers IVL and IVR (R34). -/
  iva   : PerBank
  /-- The I/O latches: the byte last written on each bank (R35, R36). -/
  ivl   : PerBank
  /-- The program counter (R28). -/
  pc    : Addr
  /-- The address register, from which the next instruction is fetched (R28, R133). -/
  ar    : Addr
  /-- The call stack, oldest entry first (R32). -/
  stk   : List Addr
  /-- `PROG` (R51). -/
  prog  : Memory
  /-- The model's own: the environment's answers to the coming reads, in order (R53;
  assumption log 3). -/
  ioIn  : List Byte
  /-- The I/O events so far, oldest first (R64, R244). -/
  trace : List IoEvent
  /-- The model's own: the levels of `P_Miss` and `D_Miss` at the coming steps; past the end both
  are low (R62; assumption log 4). -/
  miss  : List MissLevels
deriving DecidableEq, Repr

/-- The model outcomes `Undefined(reason)` of R231: the source gives the situation no meaning, and
the step has no next state. None is a trap of the hardware. -/
inductive Fault where
  /-- Raised by the fetch when the word at `ar` is reserved (R92, R93). Safe: the hardware does
  something unstated, the model stops. -/
  | reservedEncoding (w : IWord)
  /-- Raised by the fetch when `PROG` has nothing at `ar` (R51, D20). Safe. -/
  | fetchOutsideProgram (a : Addr)
  /-- Raised by CALL when eight return addresses are stacked (R202, R205, D8). Safe. -/
  | callStackOverflow
  /-- Raised by RET when the stack is empty: "undefined behavior" (R203, D9). Safe. -/
  | returnOnEmptyStack
deriving DecidableEq, Repr

/-- Why the model has no meaning for an instruction. -/
inductive Refusal where
  /-- Raised by an arm of `exec` without a meaning; no arm of this model raises it. Safe. -/
  | notModelled (mnemonic : String)
deriving DecidableEq, Repr

/-- The machine right after reset (R38, R260, R261): `pc` = `ar` = `RESET_PC`, the stack and the
trace empty; what R38 calls unspecified is a free value of Config (assumption log 1).
DESIGN CHOICE: no device answer (log 3), no program word (log 5) and no Miss level (log 4) is listed; the
spec gives no level of `P_Miss` and `D_Miss` after reset, and here both are low at every step of a
run from it. -/
def State.reset : State where
  regs  := { aux := Config.resetReg .aux, r1 := Config.resetReg .r1, r2 := Config.resetReg .r2,
             r3 := Config.resetReg .r3, r4 := Config.resetReg .r4, r5 := Config.resetReg .r5,
             r6 := Config.resetReg .r6, r11 := Config.resetReg .r11 }
  ovf   := Config.resetOvf
  iva   := { left := Config.resetIva .left, right := Config.resetIva .right }
  ivl   := { left := Config.resetIvl .left, right := Config.resetIvl .right }
  pc    := Config.resetPc
  ar    := Config.resetPc
  stk   := []
  prog  := []
  ioIn  := []
  trace := []
  miss  := []

end Sys2Proof.Machine
end

