-- ==== Sys2Proof/Machine/Flags.lean ====
section
/-! DEFINITION. The one flag and its computation (10_state.md R24 to R26, 40_datapath.md R127). -/

namespace Sys2Proof.Machine

/-- The carry out of the 8-bit unsigned addition of the ALU's two inputs (R127, conflict C11). -/
def carryOut (src a : Byte) : Bool := 255 < src.toNat + a.toNat

/-- The flag after a data operation: every ADD writes it, MOVE, AND and XOR leave it (R126, R127). -/
def aluFlag : DataOp → Byte → Byte → Bool → Bool
  | .move, _, _, old => old
  | .add, src, a, _ => carryOut src a
  | .and, _, _, old => old
  | .xor, _, _, old => old

/-- `ovfreg`, the byte read through register octal 10: seven zeros and the flag in the place of
weight 1 (R25, R26; assumption log 6). -/
def ovfByte (ovf : Bool) : Byte := if ovf then 1#8 else 0#8

end Sys2Proof.Machine
end

