-- ==== Sys2Proof/Machine/Operands.lean ====
section
/-! DEFINITION. The units of the data path as functions on bytes (40_datapath.md R120 to R132): right
rotate, mask, ALU, shift and merge, and the parts of an address that XEC and NZT replace. -/

namespace Sys2Proof.Machine

/-- Right rotate by `n` places, `n` in 0 to 7 (R121). -/
def rotr8 (v : Byte) (n : Nat) : Byte := (v >>> n) ||| (v <<< (8 - n))

/-- `len(L)`: 0 stands for 8 (R122). -/
def fieldLen (len : BitVec 3) : Nat := if len = 0#3 then 8 else len.toNat

/-- `mask8(L)`: the `len(L)` least significant bits set (R122). -/
def mask8 (len : BitVec 3) : Byte := BitVec.ofNat 8 (2 ^ fieldLen len - 1)

/-- Left shift that loses the bits past weight 2^7 (00_scope.md, pseudocode primitives). -/
def shl8 (v : Byte) (n : Nat) : Byte := v <<< n

/-- The places a field moves to align manual bit `bit` with the least significant end: `7 - S0`
to the right on input (R125), `7 - D0` to the left on output (R130). -/
def alignment (bit : BitVec 3) : Nat := 7 - bit.toNat

/-- The field of a byte read from a bank, right-justified and zero-filled (R125, R132). -/
def extractField (raw : Byte) (bit len : BitVec 3) : Byte :=
  rotr8 raw (alignment bit) &&& mask8 len

/-- The destination field as a mask, cut at the most significant end (R130, R131). -/
def fieldMask (bit len : BitVec 3) : Byte := shl8 (mask8 len) (alignment bit)

/-- The merge of a result into the byte last written on the bank (R130). -/
def mergeField (latch res : Byte) (bit len : BitVec 3) : Byte :=
  (latch &&& ~~~(fieldMask bit len)) ||| (shl8 res (alignment bit) &&& fieldMask bit len)

/-- The ALU: the source combined with AUX (R126). -/
def aluResult : DataOp → Byte → Byte → Byte
  | .move, src, _ => src
  | .add, src, a => src + a
  | .and, src, a => src &&& a
  | .xor, src, a => src ^^^ a

/-- An address with its low 8 bits replaced: the 256-word page is kept (R190, R200). -/
def replaceLow8 (a : Addr) (low : BitVec 8) : Addr := a.extractLsb' 8 8 ++ low

/-- An address with its low 5 bits replaced: the 32-word block is kept (R191, R201). -/
def replaceLow5 (a : Addr) (low : BitVec 5) : Addr := a.extractLsb' 5 11 ++ low

/-- The 5-bit sum of XEC.v: the field is taken modulo 32 (R191). -/
def sum5 (field : Byte) (imm : BitVec 5) : BitVec 5 := field.extractLsb' 0 5 + imm

/-- The target of CALL: the page from AUX, the low byte from the instruction (R202). -/
def callTarget (page : Byte) (imm : BitVec 8) : Addr := page ++ imm

/-- The target of JMP: the 13-bit field with three zeros above it (R225, D2; assumption log 10). -/
def jmpTarget (a : BitVec 13) : Addr := 0#3 ++ a

/-- The byte of XMIT.v: the 5-bit immediate with three zeros above it (R217). -/
def xmitByte (imm : BitVec 5) : Byte := 0#3 ++ imm

end Sys2Proof.Machine
end

