-- ==== Sys2Proof/Machine/Ops.lean ====
section
/-! DEFINITION. The named operations over registers, banks, program counter, call stack and program
memory. The hardware takes no exception and has no return from one (60_exceptions.md R230, R234,
R235), so no exception entry stands here; the four stops of R231 are `Fault`. -/

namespace Sys2Proof.Machine

/-- What an instruction answers. -/
abbrev Out := Host.Outcome State Fault Refusal

/-! ## Registers -/

def Regs.get (x : Regs) : GReg → Byte
  | .aux => x.aux
  | .r1 => x.r1
  | .r2 => x.r2
  | .r3 => x.r3
  | .r4 => x.r4
  | .r5 => x.r5
  | .r6 => x.r6
  | .r11 => x.r11

def Regs.set (x : Regs) (r : GReg) (v : Byte) : Regs :=
  match r with
  | .aux => { x with aux := v }
  | .r1 => { x with r1 := v }
  | .r2 => { x with r2 := v }
  | .r3 => { x with r3 := v }
  | .r4 => { x with r4 := v }
  | .r5 => { x with r5 := v }
  | .r6 => { x with r6 := v }
  | .r11 => { x with r11 := v }

def PerBank.get (p : PerBank) : Bank → Byte
  | .left => p.left
  | .right => p.right

def PerBank.set (p : PerBank) (b : Bank) (v : Byte) : PerBank :=
  match b with
  | .left => { p with left := v }
  | .right => { p with right := v }

/-- `x[S]`: a general register, or `ovfreg` (R25, R123). -/
def State.readSrc (s : State) : SReg → Byte
  | .gpr r => s.regs.get r
  | .ovf => ovfByte s.ovf

/-- `x[D] <- v` (R128). -/
def State.setReg (s : State) (r : GReg) (v : Byte) : State := { s with regs := s.regs.set r v }

def State.setOvf (s : State) (v : Bool) : State := { s with ovf := v }

/-- `iva[b] <- v`: the address on the bank's address bus and nothing else (R55, R129). -/
def State.setIva (s : State) (b : Bank) (v : Byte) : State := { s with iva := s.iva.set b v }

/-! ## Input and output -/

/-- The byte the environment answers to a read of bank `b` now (R53): the next of `ioIn`, and when
none is listed a free value (assumption log 3). -/
def State.ioAnswer (s : State) (b : Bank) : Byte :=
  match s.ioIn with
  | v :: _ => v
  | [] => Config.iodev s.trace b (s.iva.get b)

/-- The state after `IORead(b, iva[b])`, whose value is `ioAnswer`: one event, and the answer is
used up (R53). -/
def State.afterRead (s : State) (b : Bank) : State :=
  { s with ioIn := s.ioIn.tail
           trace := s.trace ++ [.read b (s.iva.get b) (s.ioAnswer b)] }

/-- `IOWrite(b, iva[b], v)`: the latch takes the byte, then the write is issued (R54). -/
def State.ioWrite (s : State) (b : Bank) (v : Byte) : State :=
  { s with ivl := s.ivl.set b v
           trace := s.trace ++ [.write b (s.iva.get b) v] }

/-- The write of a field: the result merged into the latch of the bank (R130). -/
def State.writeField (s : State) (dst : IvSel) (len : BitVec 3) (res : Byte) : State :=
  s.ioWrite dst.bank (mergeField (s.ivl.get dst.bank) res dst.bit len)

/-! ## Program counter and address register (R133) -/

/-- The common step: `pc <- pc + 1`, then `ar <- pc`. The sum wraps (R31; assumption log 8). -/
def State.advance (s : State) : State := { s with pc := s.pc + 1#16, ar := s.pc + 1#16 }

/-- A jump writes `pc`, and the step then `ar` (R133). -/
def State.jumpTo (s : State) (a : Addr) : State := { s with pc := a, ar := a }

/-- XEC changes `ar` alone (R133, R190). -/
def State.setAr (s : State) (a : Addr) : State := { s with ar := a }

/-! ## Call stack (R32) -/

/-- `stk[sp] <- a; sp <- sp + 1` -/
def State.pushStk (s : State) (a : Addr) : State := { s with stk := s.stk ++ [a] }

/-- `sp <- sp - 1` -/
def State.popStk (s : State) : State := { s with stk := s.stk.dropLast }

/-! ## Program memory (R51) -/

/-- The word at an address, if `PROG` has one there. -/
def Memory.read : Memory → Nat → Option IWord
  | [], _ => none
  | (k, w) :: m, a => if k = a then some w else Memory.read m a

/-- `PROG` with one word placed. No instruction does this (R50, R67): it stands for the loading of
a program from outside. -/
def Memory.write : Memory → Nat → IWord → Memory
  | [], a, v => [(a, v)]
  | (k, w) :: m, a, v =>
    if a < k then (a, v) :: (k, w) :: m
    else if a = k then (a, v) :: m
    else (k, w) :: Memory.write m a v

/-- Addresses strictly rising from `lo` and inside the 16-bit space. -/
def Memory.wfFrom : Nat → Memory → Bool
  | _, [] => true
  | lo, (k, _) :: m => lo ≤ k && k < 65536 && Memory.wfFrom (k + 1) m

/-- The canonical form. An unlisted address has no word, so no entry equals what it reads as. -/
def Memory.wf (m : Memory) : Bool := Memory.wfFrom 0 m

/-- `ProgRead(a)` (R51). -/
def State.progRead (s : State) (a : Addr) : Option IWord := s.prog.read a.toNat

end Sys2Proof.Machine
end

