-- ==== Sys2Proof/Machine/Datapath.lean ====
section
/-! DEFINITION. The shared meanings: the six forms of a data operation (30_encoding.md R89) over the
data path of 40_datapath.md, and the shared tails of XEC, NZT and XMIT. Every read is of the state
before the instruction (R134). -/

namespace Sys2Proof.Machine

/-- Source operand of `.rr` and `.ra`: a register, rotated, not masked (R123). -/
def State.rotatedSrc (s : State) (src : SReg) (rot : BitVec 3) : Byte :=
  rotr8 (s.readSrc src) rot.toNat

/-- Source operand of every form with a bank source: the field of the byte read (R125). -/
def State.fieldSrc (s : State) (src : IvSel) (len : BitVec 3) : Byte :=
  extractField (s.ioAnswer src.bank) src.bit len

/-- The ALU result on a source operand, with AUX as it stands (R126). -/
def State.aluRes (s : State) (op : DataOp) (v : Byte) : Byte := aluResult op v s.regs.aux

/-- The flag written after a source operand went through the ALU (R126, R127). -/
def State.flagged (s : State) (op : DataOp) (v : Byte) : State :=
  s.setOvf (aluFlag op v s.regs.aux s.ovf)

/-- `.rr`: R123, R126, R128. -/
def dataRr (op : DataOp) (src : SReg) (rot : BitVec 3) (dst : GReg) (s : State) : Out :=
  .next (((s.flagged op (s.rotatedSrc src rot)).setReg dst
    (s.aluRes op (s.rotatedSrc src rot))).advance)

/-- `.ra`: R123, R126, R129. -/
def dataRa (op : DataOp) (src : SReg) (rot : BitVec 3) (dst : Bank) (s : State) : Out :=
  .next (((s.flagged op (s.rotatedSrc src rot)).setIva dst
    (s.aluRes op (s.rotatedSrc src rot))).advance)

/-- `.rv`: the register neither rotated nor masked (R124, D13; assumption log 13), R126, R130. -/
def dataRv (op : DataOp) (src : SReg) (len : BitVec 3) (dst : IvSel) (s : State) : Out :=
  .next (((s.flagged op (s.readSrc src)).writeField dst len (s.aluRes op (s.readSrc src))).advance)

/-- `.vr`: one read (R125), R126; the register takes all 8 bits of the result (R128, conflict C7). -/
def dataVr (op : DataOp) (src : IvSel) (len : BitVec 3) (dst : GReg) (s : State) : Out :=
  .next ((((s.afterRead src.bank).flagged op (s.fieldSrc src len)).setReg dst
    (s.aluRes op (s.fieldSrc src len))).advance)

/-- `.vv`: the read, then the write; one L for mask and merge (R58, R125, R126, R130). -/
def dataVv (op : DataOp) (src : IvSel) (len : BitVec 3) (dst : IvSel) (s : State) : Out :=
  .next ((((s.afterRead src.bank).flagged op (s.fieldSrc src len)).writeField dst len
    (s.aluRes op (s.fieldSrc src len))).advance)

/-- `.va`: the read uses the old address even when both banks are one (R125, R126, R129, R134). -/
def dataVa (op : DataOp) (src : IvSel) (len : BitVec 3) (dst : Bank) (s : State) : Out :=
  .next ((((s.afterRead src.bank).flagged op (s.fieldSrc src len)).setIva dst
    (s.aluRes op (s.fieldSrc src len))).advance)

/-- The end of an NZT: to `target` when the tested value is not zero, to the next instruction
otherwise (R200, R201). -/
def State.jumpIfNonzero (s : State) (v : Byte) (target : Addr) : State :=
  s.jumpTo (if v = 0#8 then s.pc + 1#16 else target)

end Sys2Proof.Machine
end

