-- ==== Sys2Proof/Machine/Add.lean ====
section
/-! DEFINITION. The ADD family, operation code 1 (42_add.md): each form is the shared data path with its
operation. -/

namespace Sys2Proof.Machine

/-- ADD.rr (R160). -/
def execAddRr (src : SReg) (rot : BitVec 3) (dst : GReg) (s : State) : Out :=
  dataRr .add src rot dst s

/-- ADD.ra (R161). -/
def execAddRa (src : SReg) (rot : BitVec 3) (dst : Bank) (s : State) : Out :=
  dataRa .add src rot dst s

/-- ADD.rv (R162). -/
def execAddRv (src : SReg) (len : BitVec 3) (dst : IvSel) (s : State) : Out :=
  dataRv .add src len dst s

/-- ADD.vv (R163). -/
def execAddVv (src : IvSel) (len : BitVec 3) (dst : IvSel) (s : State) : Out :=
  dataVv .add src len dst s

/-- ADD.vr (R164). -/
def execAddVr (src : IvSel) (len : BitVec 3) (dst : GReg) (s : State) : Out :=
  dataVr .add src len dst s

/-- ADD.va (R165). -/
def execAddVa (src : IvSel) (len : BitVec 3) (dst : Bank) (s : State) : Out :=
  dataVa .add src len dst s

end Sys2Proof.Machine
end

