-- ==== Sys2Proof/Machine/And.lean ====
section
/-! DEFINITION. The AND family, operation code 2 (43_and.md): each form is the shared data path with its
operation. -/

namespace Sys2Proof.Machine

/-- AND.rr (R170). -/
def execAndRr (src : SReg) (rot : BitVec 3) (dst : GReg) (s : State) : Out :=
  dataRr .and src rot dst s

/-- AND.ra (R171). -/
def execAndRa (src : SReg) (rot : BitVec 3) (dst : Bank) (s : State) : Out :=
  dataRa .and src rot dst s

/-- AND.rv (R172). -/
def execAndRv (src : SReg) (len : BitVec 3) (dst : IvSel) (s : State) : Out :=
  dataRv .and src len dst s

/-- AND.vr (R173). -/
def execAndVr (src : IvSel) (len : BitVec 3) (dst : GReg) (s : State) : Out :=
  dataVr .and src len dst s

/-- AND.vv (R174). -/
def execAndVv (src : IvSel) (len : BitVec 3) (dst : IvSel) (s : State) : Out :=
  dataVv .and src len dst s

/-- AND.va (R175). -/
def execAndVa (src : IvSel) (len : BitVec 3) (dst : Bank) (s : State) : Out :=
  dataVa .and src len dst s

end Sys2Proof.Machine
end

