-- ==== Sys2Proof/Machine/Jmp.lean ====
section
/-! DEFINITION. JMP, operation code 7 (48_jmp.md). -/

namespace Sys2Proof.Machine

/-- JMP: `pc` and `ar` take the 13-bit field, zero-extended (R225). -/
def execJmp (target : BitVec 13) (s : State) : Out := .next (s.jumpTo (jmpTarget target))

end Sys2Proof.Machine
end

