-- ==== Sys2Proof/Machine/Move.lean ====
section
/-! DEFINITION. The MOVE family, operation code 0 (41_move.md): each form is the shared data path with its
operation. -/

namespace Sys2Proof.Machine

/-- MOVE.rr (R150). -/
def execMoveRr (src : SReg) (rot : BitVec 3) (dst : GReg) (s : State) : Out :=
  dataRr .move src rot dst s

/-- MOVE.ra (R151). -/
def execMoveRa (src : SReg) (rot : BitVec 3) (dst : Bank) (s : State) : Out :=
  dataRa .move src rot dst s

/-- MOVE.rv (R152). -/
def execMoveRv (src : SReg) (len : BitVec 3) (dst : IvSel) (s : State) : Out :=
  dataRv .move src len dst s

/-- MOVE.vr (R153). -/
def execMoveVr (src : IvSel) (len : BitVec 3) (dst : GReg) (s : State) : Out :=
  dataVr .move src len dst s

/-- MOVE.vv (R154). -/
def execMoveVv (src : IvSel) (len : BitVec 3) (dst : IvSel) (s : State) : Out :=
  dataVv .move src len dst s

/-- MOVE.va (R155). -/
def execMoveVa (src : IvSel) (len : BitVec 3) (dst : Bank) (s : State) : Out :=
  dataVa .move src len dst s

/-- The explicit NOP: only `pc` and `ar` advance (R156). -/
def execNop (s : State) : Out := .next s.advance

end Sys2Proof.Machine
end

