-- ==== Sys2Proof/Machine/Nzt.lean ====
section
/-! DEFINITION. NZT, CALL and RET, operation code 5 (46_nzt_call_ret.md). `s.ar` is the spec's `here`,
the address the instruction was fetched from (R133). -/

namespace Sys2Proof.Machine

/-- NZT.r: tests all 8 bits of a register; the target keeps the page of `here` (R200, R204). -/
def execNztR (src : SReg) (imm : BitVec 8) (s : State) : Out :=
  .next (s.jumpIfNonzero (s.readSrc src) (replaceLow8 s.ar imm))

/-- NZT.v: one read whether or not the jump is taken; the target keeps the 32-word block of `here`
(R201, R204). -/
def execNztV (src : IvSel) (len : BitVec 3) (imm : BitVec 5) (s : State) : Out :=
  .next ((s.afterRead src.bank).jumpIfNonzero (s.fieldSrc src len) (replaceLow5 s.ar imm))

/-- CALL: pushes the incremented `pc` and goes to the page of AUX (R202); a ninth level has no
stated meaning (R205, D8; assumption log 12). -/
def execCall (imm : BitVec 8) (s : State) : Out :=
  if s.stk.length < Config.stackDepth then
    .next ((s.pushStk (s.pc + 1#16)).jumpTo (callTarget s.regs.aux imm))
  else .fault .callStackOverflow

/-- RET: pops the newest entry into `pc`; on an empty stack "undefined behavior" (R203, D9). -/
def execRet (s : State) : Out :=
  match s.stk.getLast? with
  | some a => .next (s.popStk.jumpTo a)
  | none => .fault .returnOnEmptyStack

end Sys2Proof.Machine
end

