-- ==== Sys2Proof/Machine/Xec.lean ====
section
/-! DEFINITION. XEC, operation code 4 (45_xec.md): the next instruction comes from another address of
the page or block of `ar`, and `pc` stays. -/

namespace Sys2Proof.Machine

/-- XEC.r: `ar[7:0] <- x[S] + I8`; `pc` and `ovf` unchanged, no common increment (R190). -/
def execXecR (src : SReg) (imm : BitVec 8) (s : State) : Out :=
  .next (s.setAr (replaceLow8 s.ar (s.readSrc src + imm)))

/-- XEC.v: one read, `ar[4:0] <- field + I5`; `pc` and `ovf` unchanged (R191). The decoder yields
L in 1 to 5 only (assumption log 20). -/
def execXecV (src : IvSel) (len : BitVec 3) (imm : BitVec 5) (s : State) : Out :=
  .next ((s.afterRead src.bank).setAr (replaceLow5 s.ar (sum5 (s.fieldSrc src len) imm)))

end Sys2Proof.Machine
end

