-- ==== Sys2Proof/Machine/Xmit.lean ====
section
/-! DEFINITION. XMIT, operation code 6 (47_xmit.md): load immediate. -/

namespace Sys2Proof.Machine

/-- XMIT.r: `x[D] <- I8` (R215). -/
def execXmitR (dst : GReg) (imm : BitVec 8) (s : State) : Out := .next ((s.setReg dst imm).advance)

/-- XMIT.a: `iva[b] <- I8`; no data moves and the latch stays (R216, R55). -/
def execXmitA (dst : Bank) (imm : BitVec 8) (s : State) : Out := .next ((s.setIva dst imm).advance)

/-- XMIT.v: the zero-extended immediate merged into a field; no read of the bus (R217,
conflict C8). -/
def execXmitV (dst : IvSel) (len : BitVec 3) (imm : BitVec 5) (s : State) : Out :=
  .next ((s.writeField dst len (xmitByte imm)).advance)

end Sys2Proof.Machine
end

