-- ==== Sys2Proof/Machine/Xor.lean ====
section
/-! DEFINITION. The XOR family, operation code 3 (44_xor.md): each form is the shared data path with its
operation. -/

namespace Sys2Proof.Machine

/-- XOR.rr (R180). -/
def execXorRr (src : SReg) (rot : BitVec 3) (dst : GReg) (s : State) : Out :=
  dataRr .xor src rot dst s

/-- XOR.ra (R181). -/
def execXorRa (src : SReg) (rot : BitVec 3) (dst : Bank) (s : State) : Out :=
  dataRa .xor src rot dst s

/-- XOR.rv (R182). -/
def execXorRv (src : SReg) (len : BitVec 3) (dst : IvSel) (s : State) : Out :=
  dataRv .xor src len dst s

/-- XOR.vr (R183). -/
def execXorVr (src : IvSel) (len : BitVec 3) (dst : GReg) (s : State) : Out :=
  dataVr .xor src len dst s

/-- XOR.vv (R184). -/
def execXorVv (src : IvSel) (len : BitVec 3) (dst : IvSel) (s : State) : Out :=
  dataVv .xor src len dst s

/-- XOR.va (R185). -/
def execXorVa (src : IvSel) (len : BitVec 3) (dst : Bank) (s : State) : Out :=
  dataVa .xor src len dst s

end Sys2Proof.Machine
end

