-- ==== Sys2Proof/Machine/Dispatch.lean ====
section
/-! DEFINITION. The meaning of every instruction form: one arm per constructor of Instr. -/

namespace Sys2Proof.Machine

def exec (i : Instr) (s : State) : Host.Outcome State Fault Refusal :=
  match i with
  | .moveRr src rot dst => Sys2Proof.Machine.execMoveRr src rot dst s
  | .moveRa src rot dst => Sys2Proof.Machine.execMoveRa src rot dst s
  | .moveRv src len dst => Sys2Proof.Machine.execMoveRv src len dst s
  | .moveVr src len dst => Sys2Proof.Machine.execMoveVr src len dst s
  | .moveVv src len dst => Sys2Proof.Machine.execMoveVv src len dst s
  | .moveVa src len dst => Sys2Proof.Machine.execMoveVa src len dst s
  | .nop => Sys2Proof.Machine.execNop s
  | .addRr src rot dst => Sys2Proof.Machine.execAddRr src rot dst s
  | .addRa src rot dst => Sys2Proof.Machine.execAddRa src rot dst s
  | .addRv src len dst => Sys2Proof.Machine.execAddRv src len dst s
  | .addVv src len dst => Sys2Proof.Machine.execAddVv src len dst s
  | .addVr src len dst => Sys2Proof.Machine.execAddVr src len dst s
  | .addVa src len dst => Sys2Proof.Machine.execAddVa src len dst s
  | .andRr src rot dst => Sys2Proof.Machine.execAndRr src rot dst s
  | .andRa src rot dst => Sys2Proof.Machine.execAndRa src rot dst s
  | .andRv src len dst => Sys2Proof.Machine.execAndRv src len dst s
  | .andVr src len dst => Sys2Proof.Machine.execAndVr src len dst s
  | .andVv src len dst => Sys2Proof.Machine.execAndVv src len dst s
  | .andVa src len dst => Sys2Proof.Machine.execAndVa src len dst s
  | .xorRr src rot dst => Sys2Proof.Machine.execXorRr src rot dst s
  | .xorRa src rot dst => Sys2Proof.Machine.execXorRa src rot dst s
  | .xorRv src len dst => Sys2Proof.Machine.execXorRv src len dst s
  | .xorVr src len dst => Sys2Proof.Machine.execXorVr src len dst s
  | .xorVv src len dst => Sys2Proof.Machine.execXorVv src len dst s
  | .xorVa src len dst => Sys2Proof.Machine.execXorVa src len dst s
  | .xecR src imm => Sys2Proof.Machine.execXecR src imm s
  | .xecV src len imm => Sys2Proof.Machine.execXecV src len imm s
  | .nztR src imm => Sys2Proof.Machine.execNztR src imm s
  | .nztV src len imm => Sys2Proof.Machine.execNztV src len imm s
  | .call imm => Sys2Proof.Machine.execCall imm s
  | .ret => Sys2Proof.Machine.execRet s
  | .xmitR dst imm => Sys2Proof.Machine.execXmitR dst imm s
  | .xmitA dst imm => Sys2Proof.Machine.execXmitA dst imm s
  | .xmitV dst len imm => Sys2Proof.Machine.execXmitV dst len imm s
  | .jmp target => Sys2Proof.Machine.execJmp target s

end Sys2Proof.Machine
end

