-- ==== Sys2Proof/WellFormed.lean ====
section
/-! DEFINITION. Which instruction terms stand for an instruction word of their own. The operand
types already exclude every register number outside the valid-operand lists; two checks remain. -/

namespace Sys2Proof

/-- The lengths XEC.v admits: "L: 1, 2, 3, 4, 5" (R191; L = 0, 6, 7 are reserved, R92 V5). -/
def xecLengthOk (len : BitVec 3) : Bool := 1 ≤ len.toNat && len.toNat ≤ 5

/-- `MOVE AUX(0), AUX` has the all-zero word, which the table's NOP row names (R96, R102 row 7).
DESIGN CHOICE (assumption log 7): that word's one term is `nop`. -/
def isExplicitNop (src : SReg) (rot : BitVec 3) (dst : GReg) : Bool :=
  src == .gpr .aux && rot == 0#3 && dst == .aux

/-- The term stands for one instruction word and that word for it (R92, R102). -/
def Instr.wellFormed : Instr → Bool
  | .moveRr src rot dst => !isExplicitNop src rot dst
  | .moveRa _ _ _ => true
  | .moveRv _ _ _ => true
  | .moveVr _ _ _ => true
  | .moveVv _ _ _ => true
  | .moveVa _ _ _ => true
  | .nop => true
  | .addRr _ _ _ => true
  | .addRa _ _ _ => true
  | .addRv _ _ _ => true
  | .addVv _ _ _ => true
  | .addVr _ _ _ => true
  | .addVa _ _ _ => true
  | .andRr _ _ _ => true
  | .andRa _ _ _ => true
  | .andRv _ _ _ => true
  | .andVr _ _ _ => true
  | .andVv _ _ _ => true
  | .andVa _ _ _ => true
  | .xorRr _ _ _ => true
  | .xorRa _ _ _ => true
  | .xorRv _ _ _ => true
  | .xorVr _ _ _ => true
  | .xorVv _ _ _ => true
  | .xorVa _ _ _ => true
  | .xecR _ _ => true
  | .xecV _ len _ => xecLengthOk len
  | .nztR _ _ => true
  | .nztV _ _ _ => true
  | .call _ => true
  | .ret => true
  | .xmitR _ _ => true
  | .xmitA _ _ => true
  | .xmitV _ _ _ => true
  | .jmp _ => true

end Sys2Proof
end

