-- ==== Sys2Proof/Decode.lean ====
section
/-! DEFINITION. The decoder of 30_encoding.md rule R103, total on every 16-bit word, and the encoder
written from the same tables (R81 to R92, R102). -/

namespace Sys2Proof

/-! ## Fields of a word (R81) -/

def fieldOp (w : IWord) : BitVec 3 := w.extractLsb' 13 3

def fieldS (w : IWord) : BitVec 5 := w.extractLsb' 8 5

/-- R or L: the same bits (R81). -/
def fieldRL (w : IWord) : BitVec 3 := w.extractLsb' 5 3

def fieldD (w : IWord) : BitVec 5 := w.extractLsb' 0 5

def fieldI8 (w : IWord) : BitVec 8 := w.extractLsb' 0 8

def fieldI5 (w : IWord) : BitVec 5 := w.extractLsb' 0 5

def fieldA (w : IWord) : BitVec 13 := w.extractLsb' 0 13

/-- S1 or D1, the high part of a 5-bit selector. -/
def selHi (f : BitVec 5) : BitVec 2 := f.extractLsb' 3 2

/-- S0 or D0, the low part of a 5-bit selector. -/
def selLo (f : BitVec 5) : BitVec 3 := f.extractLsb' 0 3

/-! ## Operand classes -/

/-- The class of a source selector (R87). -/
inductive SrcClass where
  | reg (r : SReg)
  | iva (b : Bank)
  | noReg
  | iv (f : IvSel)
deriving DecidableEq, Repr

/-- The class of a destination selector (R88). -/
inductive DstClass where
  | reg (r : GReg)
  | iva (b : Bank)
  | noReg
  | iv (f : IvSel)
deriving DecidableEq, Repr

/-- The table of R87, row by row: group S1, then number or bit S0. -/
def classS (f : BitVec 5) : SrcClass :=
  match (selHi f).toNat, (selLo f).toNat with
  | 0, 0 => .reg (.gpr .aux)
  | 0, 1 => .reg (.gpr .r1)
  | 0, 2 => .reg (.gpr .r2)
  | 0, 3 => .reg (.gpr .r3)
  | 0, 4 => .reg (.gpr .r4)
  | 0, 5 => .reg (.gpr .r5)
  | 0, 6 => .reg (.gpr .r6)
  | 0, _ => .iva .left
  | 1, 0 => .reg .ovf
  | 1, 1 => .reg (.gpr .r11)
  | 1, 7 => .iva .right
  | 1, _ => .noReg
  | 2, _ => .iv { bank := .left, bit := selLo f }
  | _, _ => .iv { bank := .right, bit := selLo f }

/-- The table of R88: as R87, but OVF is not writable. -/
def classD (f : BitVec 5) : DstClass :=
  match classS f with
  | .reg (.gpr r) => .reg r
  | .reg .ovf => .noReg
  | .iva b => .iva b
  | .noReg => .noReg
  | .iv f => .iv f

/-- Why a word is reserved: the classes V1 to V8 of R92. -/
inductive Reserved where
  /-- V1: an address register as the source of operation codes 0 to 3. -/
  | v1
  /-- V2: a source number of operation codes 0 to 3 at which there is no register. -/
  | v2
  /-- V3: a destination number of operation codes 0 to 3 that no instruction may write. -/
  | v3
  /-- V4: a source of XEC that is no register and no bank field. -/
  | v4
  /-- V5: XEC on a bank field with L = 0, 6 or 7. -/
  | v5
  /-- V6: a source of operation code 5 at which there is no register. -/
  | v6
  /-- V7: RET with a nonzero low byte. -/
  | v7
  /-- V8: a destination number of XMIT that no instruction may write. -/
  | v8
deriving DecidableEq, Repr

/-! ## The six forms of a data operation (R89) -/

/-- `.rr`; `MOVE AUX(0), AUX` is the explicit NOP (R96). -/
def formRr : DataOp → SReg → BitVec 3 → GReg → Instr
  | .move, src, rot, dst => if isExplicitNop src rot dst then .nop else .moveRr src rot dst
  | .add, src, rot, dst => .addRr src rot dst
  | .and, src, rot, dst => .andRr src rot dst
  | .xor, src, rot, dst => .xorRr src rot dst

/-- `.ra` -/
def formRa : DataOp → SReg → BitVec 3 → Bank → Instr
  | .move, src, rot, dst => .moveRa src rot dst
  | .add, src, rot, dst => .addRa src rot dst
  | .and, src, rot, dst => .andRa src rot dst
  | .xor, src, rot, dst => .xorRa src rot dst

/-- `.rv` -/
def formRv : DataOp → SReg → BitVec 3 → IvSel → Instr
  | .move, src, len, dst => .moveRv src len dst
  | .add, src, len, dst => .addRv src len dst
  | .and, src, len, dst => .andRv src len dst
  | .xor, src, len, dst => .xorRv src len dst

/-- `.vr` -/
def formVr : DataOp → IvSel → BitVec 3 → GReg → Instr
  | .move, src, len, dst => .moveVr src len dst
  | .add, src, len, dst => .addVr src len dst
  | .and, src, len, dst => .andVr src len dst
  | .xor, src, len, dst => .xorVr src len dst

/-- `.vv` -/
def formVv : DataOp → IvSel → BitVec 3 → IvSel → Instr
  | .move, src, len, dst => .moveVv src len dst
  | .add, src, len, dst => .addVv src len dst
  | .and, src, len, dst => .andVv src len dst
  | .xor, src, len, dst => .xorVv src len dst

/-- `.va` -/
def formVa : DataOp → IvSel → BitVec 3 → Bank → Instr
  | .move, src, len, dst => .moveVa src len dst
  | .add, src, len, dst => .addVa src len dst
  | .and, src, len, dst => .andVa src len dst
  | .xor, src, len, dst => .xorVa src len dst

/-! ## The decoder (R103) -/

/-- Operation codes 0 to 3: the pair of operand classes selects the form (R89). -/
def decodeData (op : DataOp) (w : IWord) : Except Reserved Instr :=
  match classS (fieldS w), classD (fieldD w) with
  | .iva _, _ => .error .v1
  | .noReg, _ => .error .v2
  | _, .noReg => .error .v3
  | .reg src, .reg dst => .ok (formRr op src (fieldRL w) dst)
  | .reg src, .iva dst => .ok (formRa op src (fieldRL w) dst)
  | .reg src, .iv dst => .ok (formRv op src (fieldRL w) dst)
  | .iv src, .reg dst => .ok (formVr op src (fieldRL w) dst)
  | .iv src, .iv dst => .ok (formVv op src (fieldRL w) dst)
  | .iv src, .iva dst => .ok (formVa op src (fieldRL w) dst)

/-- Operation code 4 (R90, R92 V4 and V5). -/
def decodeXec (w : IWord) : Except Reserved Instr :=
  match classS (fieldS w) with
  | .reg src => .ok (.xecR src (fieldI8 w))
  | .iv src => if xecLengthOk (fieldRL w) then .ok (.xecV src (fieldRL w) (fieldI5 w)) else .error .v5
  | .iva _ => .error .v4
  | .noReg => .error .v4

/-- Operation code 5: NZT, and CALL and RET in the two selectors that no source may use
(R90, R94, R92 V6 and V7). -/
def decodeNzt (w : IWord) : Except Reserved Instr :=
  match classS (fieldS w) with
  | .reg src => .ok (.nztR src (fieldI8 w))
  | .iv src => .ok (.nztV src (fieldRL w) (fieldI5 w))
  | .iva .left => .ok (.call (fieldI8 w))
  | .iva .right => if fieldI8 w = 0#8 then .ok .ret else .error .v7
  | .noReg => .error .v6

/-- Operation code 6: the destination stands in the S position (R88, R90, R92 V8). -/
def decodeXmit (w : IWord) : Except Reserved Instr :=
  match classD (fieldS w) with
  | .reg dst => .ok (.xmitR dst (fieldI8 w))
  | .iva dst => .ok (.xmitA dst (fieldI8 w))
  | .iv dst => .ok (.xmitV dst (fieldRL w) (fieldI5 w))
  | .noReg => .error .v8

/-- The instruction a word stands for, or the class of reserved words it falls in
(R86, R92, R103). -/
def decode (w : IWord) : Except Reserved Instr :=
  match (fieldOp w).toNat with
  | 0 => decodeData .move w
  | 1 => decodeData .add w
  | 2 => decodeData .and w
  | 3 => decodeData .xor w
  | 4 => decodeXec w
  | 5 => decodeNzt w
  | 6 => decodeXmit w
  | _ => .ok (.jmp (fieldA w))

/-- The instruction in the word whose low `nbits` bits are those of `w`, every bit above them 0.
An instruction is one 16-bit word and has no byte order (R59, R80). -/
def decodeTableWord (nbits w : Nat) : Option Instr :=
  match decode (BitVec.ofNat 16 (w % 2 ^ nbits)) with
  | .ok i => some i
  | .error _ => none

/-! ## The encoder (R82 to R85, R87, R88, R102) -/

/-- Register numbers in octal: 00 to 06 and 11 (R20). -/
def GReg.num : GReg → BitVec 5
  | .aux => 0#5
  | .r1 => 1#5
  | .r2 => 2#5
  | .r3 => 3#5
  | .r4 => 4#5
  | .r5 => 5#5
  | .r6 => 6#5
  | .r11 => 9#5

/-- Register sources: octal 10 is OVF (R87). -/
def SReg.num : SReg → BitVec 5
  | .gpr r => r.num
  | .ovf => 8#5

/-- The address registers: octal 07 (left) and 17 (right) (R34). -/
def Bank.addrNum : Bank → BitVec 5
  | .left => 7#5
  | .right => 15#5

/-- The bank part of a data selector: 2 is left, 3 is right (R87). -/
def Bank.dataGroup : Bank → BitVec 2
  | .left => 2#2
  | .right => 3#2

/-- The selector octal 20 to 37 of a bank data field (R87, R88). -/
def IvSel.num (f : IvSel) : BitVec 5 := f.bank.dataGroup ++ f.bit

/-- The operation codes of the data operations (R86). -/
def DataOp.code : DataOp → BitVec 3
  | .move => 0#3
  | .add => 1#3
  | .and => 2#3
  | .xor => 3#3

/-- Format F-RD (R82). -/
def wordRd (op : BitVec 3) (s : BitVec 5) (rl : BitVec 3) (d : BitVec 5) : IWord :=
  op ++ s ++ rl ++ d

/-- Format F-I8 (R83). -/
def wordI8 (op : BitVec 3) (s : BitVec 5) (i : BitVec 8) : IWord := op ++ s ++ i

/-- Format F-LI5 (R84): the fields stand where F-RD has them, I5 in the place of D. -/
def wordLi5 (op : BitVec 3) (s : BitVec 5) (l : BitVec 3) (i : BitVec 5) : IWord := op ++ s ++ l ++ i

/-- Format F-A (R85). -/
def wordA (op : BitVec 3) (a : BitVec 13) : IWord := op ++ a

/-- The word of an instruction (R102, row by row). -/
def encode : Instr → IWord
  | .moveRr src rot dst => wordRd 0#3 src.num rot dst.num
  | .moveRa src rot dst => wordRd 0#3 src.num rot dst.addrNum
  | .moveRv src len dst => wordRd 0#3 src.num len dst.num
  | .moveVr src len dst => wordRd 0#3 src.num len dst.num
  | .moveVv src len dst => wordRd 0#3 src.num len dst.num
  | .moveVa src len dst => wordRd 0#3 src.num len dst.addrNum
  | .nop => 0x0000#16
  | .addRr src rot dst => wordRd 1#3 src.num rot dst.num
  | .addRa src rot dst => wordRd 1#3 src.num rot dst.addrNum
  | .addRv src len dst => wordRd 1#3 src.num len dst.num
  | .addVv src len dst => wordRd 1#3 src.num len dst.num
  | .addVr src len dst => wordRd 1#3 src.num len dst.num
  | .addVa src len dst => wordRd 1#3 src.num len dst.addrNum
  | .andRr src rot dst => wordRd 2#3 src.num rot dst.num
  | .andRa src rot dst => wordRd 2#3 src.num rot dst.addrNum
  | .andRv src len dst => wordRd 2#3 src.num len dst.num
  | .andVr src len dst => wordRd 2#3 src.num len dst.num
  | .andVv src len dst => wordRd 2#3 src.num len dst.num
  | .andVa src len dst => wordRd 2#3 src.num len dst.addrNum
  | .xorRr src rot dst => wordRd 3#3 src.num rot dst.num
  | .xorRa src rot dst => wordRd 3#3 src.num rot dst.addrNum
  | .xorRv src len dst => wordRd 3#3 src.num len dst.num
  | .xorVr src len dst => wordRd 3#3 src.num len dst.num
  | .xorVv src len dst => wordRd 3#3 src.num len dst.num
  | .xorVa src len dst => wordRd 3#3 src.num len dst.addrNum
  | .xecR src imm => wordI8 4#3 src.num imm
  | .xecV src len imm => wordLi5 4#3 src.num len imm
  | .nztR src imm => wordI8 5#3 src.num imm
  | .nztV src len imm => wordLi5 5#3 src.num len imm
  | .call imm => wordI8 5#3 7#5 imm
  | .ret => wordI8 5#3 15#5 0#8
  | .xmitR dst imm => wordI8 6#3 dst.num imm
  | .xmitA dst imm => wordI8 6#3 dst.addrNum imm
  | .xmitV dst len imm => wordLi5 6#3 dst.num len imm
  | .jmp target => wordA 7#3 target

end Sys2Proof
end

