-- ==== Sys2Proof/Machine/Fetch.lean ====
section
/-! DEFINITION. What happens around the meaning of an instruction: the Miss inputs (20_memory.md R62),
the fetch from `ar` and the decode (40_datapath.md R133), in the order of 60_exceptions.md R233. -/

namespace Sys2Proof.Machine

/-- The bank whose data bus an instruction reads: those with a bank source (R58). -/
def ioReadBank : Instr → Option Bank
  | .moveRr _ _ _ => none
  | .moveRa _ _ _ => none
  | .moveRv _ _ _ => none
  | .moveVr src _ _ => some src.bank
  | .moveVv src _ _ => some src.bank
  | .moveVa src _ _ => some src.bank
  | .nop => none
  | .addRr _ _ _ => none
  | .addRa _ _ _ => none
  | .addRv _ _ _ => none
  | .addVv src _ _ => some src.bank
  | .addVr src _ _ => some src.bank
  | .addVa src _ _ => some src.bank
  | .andRr _ _ _ => none
  | .andRa _ _ _ => none
  | .andRv _ _ _ => none
  | .andVr src _ _ => some src.bank
  | .andVv src _ _ => some src.bank
  | .andVa src _ _ => some src.bank
  | .xorRr _ _ _ => none
  | .xorRa _ _ _ => none
  | .xorRv _ _ _ => none
  | .xorVr src _ _ => some src.bank
  | .xorVv src _ _ => some src.bank
  | .xorVa src _ _ => some src.bank
  | .xecR _ _ => none
  | .xecV src _ _ => some src.bank
  | .nztR _ _ => none
  | .nztV src _ _ => some src.bank
  | .call _ => none
  | .ret => none
  | .xmitR _ _ => none
  | .xmitA _ _ => none
  | .xmitV _ _ _ => none
  | .jmp _ => none

/-- The bank whose data bus an instruction writes: those with a bank data destination (R58). -/
def ioWriteBank : Instr → Option Bank
  | .moveRr _ _ _ => none
  | .moveRa _ _ _ => none
  | .moveRv _ _ dst => some dst.bank
  | .moveVr _ _ _ => none
  | .moveVv _ _ dst => some dst.bank
  | .moveVa _ _ _ => none
  | .nop => none
  | .addRr _ _ _ => none
  | .addRa _ _ _ => none
  | .addRv _ _ dst => some dst.bank
  | .addVv _ _ dst => some dst.bank
  | .addVr _ _ _ => none
  | .addVa _ _ _ => none
  | .andRr _ _ _ => none
  | .andRa _ _ _ => none
  | .andRv _ _ dst => some dst.bank
  | .andVr _ _ _ => none
  | .andVv _ _ dst => some dst.bank
  | .andVa _ _ _ => none
  | .xorRr _ _ _ => none
  | .xorRa _ _ _ => none
  | .xorRv _ _ dst => some dst.bank
  | .xorVr _ _ _ => none
  | .xorVv _ _ dst => some dst.bank
  | .xorVa _ _ _ => none
  | .xecR _ _ => none
  | .xecV _ _ _ => none
  | .nztR _ _ => none
  | .nztV _ _ _ => none
  | .call _ => none
  | .ret => none
  | .xmitR _ _ => none
  | .xmitA _ _ => none
  | .xmitV dst _ _ => some dst.bank
  | .jmp _ => none

/-- The instruction needs an I/O data bus, so a high `D_Miss` holds it back (R62). -/
def usesIoBus (i : Instr) : Bool := (ioReadBank i).isSome || (ioWriteBank i).isSome

/-- The level of `P_Miss` at this step (R62). -/
def State.pMissNow (s : State) : Bool :=
  match s.miss with
  | m :: _ => m.pMiss
  | [] => false

/-- The level of `D_Miss` at this step (R62). -/
def State.dMissNow (s : State) : Bool :=
  match s.miss with
  | m :: _ => m.dMiss
  | [] => false

/-- The inputs move on to their levels at the next step. -/
def State.passMiss (s : State) : State := { s with miss := s.miss.tail }

/-- The instruction `ar` addresses, or the stop of R231 that the fetch or the decode raises, in that
order (R133, R233). -/
def State.fetchInstr (s : State) : Except Fault Instr :=
  match s.progRead s.ar with
  | none => .error (.fetchOutsideProgram s.ar)
  | some w =>
    match decode w with
    | .ok i => .ok i
    | .error _ => .error (.reservedEncoding w)

/-- One step around the meanings `run`: while the Miss input of a bus the instruction needs is high
nothing happens but time (R62); otherwise the fetched instruction runs, or the step stops (R133). -/
def stepWith (run : Instr → State → Out) (s : State) : Out :=
  if s.pMissNow then .next s.passMiss
  else
    match s.fetchInstr with
    | .error f => .fault f
    | .ok i => if s.dMissNow && usesIoBus i then .next s.passMiss else run i s.passMiss

/-- `s` with a word placed at `ar` and both Miss inputs low, so that the next step runs it. -/
def State.placeWord (s : State) (w : IWord) : State :=
  { s with prog := s.prog.write s.ar.toNat w, miss := [] }

end Sys2Proof.Machine
end

