-- ==== Sys2Proof/Safety.lean ====
section
/-! DEFINITION. The words the claims are made in: what a safe run is, the invariant of the machine,
what an instruction keeps and what it does to a byte, bit by bit. -/

namespace Sys2Proof.Machine

/-! ## Runs -/

/-- A safe run of `n` steps: it ends in a state, not in one of the stops of R231. -/
def RunsTo (n : Nat) (s t : State) : Prop := Sys2Proof.core.run n s = .next t

/-- The byte last written on a bank, if the trace has a write on it (R35). -/
def lastWrite (b : Bank) : List IoEvent → Option Byte
  | [] => none
  | .read _ _ _ :: es => lastWrite b es
  | .write b' _ v :: es =>
    match lastWrite b es with
    | some u => some u
    | none => if b' = b then some v else none

/-- What every step keeps: the canonical form of program memory, the depth of the call stack
(R32), and each latch holding the byte last written on its bank (R35, R54). -/
structure State.Inv (s : State) : Prop where
  progWf : s.prog.wf = true
  depth  : s.stk.length ≤ Config.stackDepth
  latch  : ∀ b v, lastWrite b s.trace = some v → s.ivl.get b = v

/-! ## Kinds of instruction -/

/-- The four data operations in the form `.rr`: MOVE.rr, ADD.rr, AND.rr, XOR.rr. -/
def rrOf : DataOp → SReg → BitVec 3 → GReg → Instr
  | .move => .moveRr
  | .add => .addRr
  | .and => .andRr
  | .xor => .xorRr

/-- The form `.ra`: MOVE.ra, ADD.ra, AND.ra, XOR.ra. -/
def raOf : DataOp → SReg → BitVec 3 → Bank → Instr
  | .move => .moveRa
  | .add => .addRa
  | .and => .andRa
  | .xor => .xorRa

/-- The form `.rv`: MOVE.rv, ADD.rv, AND.rv, XOR.rv. -/
def rvOf : DataOp → SReg → BitVec 3 → IvSel → Instr
  | .move => .moveRv
  | .add => .addRv
  | .and => .andRv
  | .xor => .xorRv

/-- The form `.vr`: MOVE.vr, ADD.vr, AND.vr, XOR.vr. -/
def vrOf : DataOp → IvSel → BitVec 3 → GReg → Instr
  | .move => .moveVr
  | .add => .addVr
  | .and => .andVr
  | .xor => .xorVr

/-- The form `.vv`: MOVE.vv, ADD.vv, AND.vv, XOR.vv. -/
def vvOf : DataOp → IvSel → BitVec 3 → IvSel → Instr
  | .move => .moveVv
  | .add => .addVv
  | .and => .andVv
  | .xor => .xorVv

/-- The form `.va`: MOVE.va, ADD.va, AND.va, XOR.va. -/
def vaOf : DataOp → IvSel → BitVec 3 → Bank → Instr
  | .move => .moveVa
  | .add => .addVa
  | .and => .andVa
  | .xor => .xorVa

/-- The two XEC forms. -/
def isXec : Instr → Bool
  | .xecR _ _ => true
  | .xecV _ _ _ => true
  | _ => false

/-- The six ADD forms. -/
def isAdd : Instr → Bool
  | .addRr _ _ _ => true
  | .addRa _ _ _ => true
  | .addRv _ _ _ => true
  | .addVv _ _ _ => true
  | .addVr _ _ _ => true
  | .addVa _ _ _ => true
  | _ => false

/-- The instructions that may send control elsewhere: NZT, CALL, RET, JMP. -/
def mayJump : Instr → Bool
  | .nztR _ _ => true
  | .nztV _ _ _ => true
  | .call _ => true
  | .ret => true
  | .jmp _ => true
  | _ => false

/-- The general register an instruction names as its destination. -/
def destReg : Instr → Option GReg
  | .moveRr _ _ d => some d
  | .moveVr _ _ d => some d
  | .addRr _ _ d => some d
  | .addVr _ _ d => some d
  | .andRr _ _ d => some d
  | .andVr _ _ d => some d
  | .xorRr _ _ d => some d
  | .xorVr _ _ d => some d
  | .xmitR d _ => some d
  | _ => none

/-- The bank whose address register an instruction names as its destination. -/
def destIva : Instr → Option Bank
  | .moveRa _ _ d => some d
  | .moveVa _ _ d => some d
  | .addRa _ _ d => some d
  | .addVa _ _ d => some d
  | .andRa _ _ d => some d
  | .andVa _ _ d => some d
  | .xorRa _ _ d => some d
  | .xorVa _ _ d => some d
  | .xmitA d _ => some d
  | _ => none

/-- The register source an instruction names. -/
def regSource : Instr → Option SReg
  | .moveRr r _ _ => some r
  | .moveRa r _ _ => some r
  | .moveRv r _ _ => some r
  | .addRr r _ _ => some r
  | .addRa r _ _ => some r
  | .addRv r _ _ => some r
  | .andRr r _ _ => some r
  | .andRa r _ _ => some r
  | .andRv r _ _ => some r
  | .xorRr r _ _ => some r
  | .xorRa r _ _ => some r
  | .xorRv r _ _ => some r
  | .xecR r _ => some r
  | .nztR r _ => some r
  | _ => none

/-- The operation code of an instruction (R86). -/
def opCode : Instr → Nat
  | .moveRr _ _ _ => 0
  | .moveRa _ _ _ => 0
  | .moveRv _ _ _ => 0
  | .moveVr _ _ _ => 0
  | .moveVv _ _ _ => 0
  | .moveVa _ _ _ => 0
  | .nop => 0
  | .addRr _ _ _ => 1
  | .addRa _ _ _ => 1
  | .addRv _ _ _ => 1
  | .addVv _ _ _ => 1
  | .addVr _ _ _ => 1
  | .addVa _ _ _ => 1
  | .andRr _ _ _ => 2
  | .andRa _ _ _ => 2
  | .andRv _ _ _ => 2
  | .andVr _ _ _ => 2
  | .andVv _ _ _ => 2
  | .andVa _ _ _ => 2
  | .xorRr _ _ _ => 3
  | .xorRa _ _ _ => 3
  | .xorRv _ _ _ => 3
  | .xorVr _ _ _ => 3
  | .xorVv _ _ _ => 3
  | .xorVa _ _ _ => 3
  | .xecR _ _ => 4
  | .xecV _ _ _ => 4
  | .nztR _ _ => 5
  | .nztV _ _ _ => 5
  | .call _ => 5
  | .ret => 5
  | .xmitR _ _ => 6
  | .xmitA _ _ => 6
  | .xmitV _ _ _ => 6
  | .jmp _ => 7

/-! ## What an instruction keeps -/

def KeepsRegs (s t : State) : Prop := ∀ r, t.regs.get r = s.regs.get r

def KeepsRegsBut (d : GReg) (s t : State) : Prop := ∀ r, r ≠ d → t.regs.get r = s.regs.get r

def KeepsOvf (s t : State) : Prop := t.ovf = s.ovf

def KeepsIva (s t : State) : Prop := ∀ b, t.iva.get b = s.iva.get b

def KeepsIvaBut (d : Bank) (s t : State) : Prop := ∀ b, b ≠ d → t.iva.get b = s.iva.get b

def KeepsIvl (s t : State) : Prop := ∀ b, t.ivl.get b = s.ivl.get b

def KeepsIvlBut (d : Bank) (s t : State) : Prop := ∀ b, b ≠ d → t.ivl.get b = s.ivl.get b

def KeepsStk (s t : State) : Prop := t.stk = s.stk

/-- Every word of program memory reads as before. -/
def KeepsProg (s t : State) : Prop := ∀ a, t.progRead a = s.progRead a

/-- The levels of the Miss inputs still to come are the same. -/
def KeepsMiss (s t : State) : Prop := t.miss = s.miss

/-- No access to a bank's data bus: no event, no answer used up (R58). -/
def NoIo (s t : State) : Prop := t.trace = s.trace ∧ t.ioIn = s.ioIn

/-- The event of reading bank `b` in `s` (R53). -/
def readEvent (s : State) (b : Bank) : IoEvent := .read b (s.iva.get b) (s.ioAnswer b)

/-- The event of writing `v` on bank `b` in `s` (R54). -/
def writeEvent (s : State) (b : Bank) (v : Byte) : IoEvent := .write b (s.iva.get b) v

/-- Exactly one read, of bank `b`. -/
def OneRead (b : Bank) (s t : State) : Prop :=
  t.trace = s.trace ++ [readEvent s b] ∧ t.ioIn = s.ioIn.tail

/-- Exactly one write, of `v` on bank `b`, at the address in `iva[b]`. -/
def OneWrite (b : Bank) (v : Byte) (s t : State) : Prop :=
  t.trace = s.trace ++ [writeEvent s b v] ∧ t.ioIn = s.ioIn

/-- One read of bank `bs`, then one write of `v` on bank `bd`. -/
def ReadThenWrite (bs bd : Bank) (v : Byte) (s t : State) : Prop :=
  t.trace = s.trace ++ [readEvent s bs, writeEvent s bd v] ∧ t.ioIn = s.ioIn.tail

/-- The common step: `pc <- pc + 1; ar <- pc` (R133). -/
def FallsThrough (s t : State) : Prop := t.pc = s.pc + 1#16 ∧ t.ar = t.pc

/-! ## Bytes, bit by bit (weight `k` is manual bit `7 - k`, R7) -/

/-- `u` is `v` rotated right by `rot` places (R121). -/
def RotatedBits (v : Byte) (rot : BitVec 3) (u : Byte) : Prop :=
  ∀ k, k < 8 → u.getLsbD k = v.getLsbD ((k + rot.toNat) % 8)

/-- `v` is the field of `len` bits of `raw` whose least significant bit is manual bit `bit`,
right-justified, zeros above; a field that passes manual bit 0 wraps (R125, R132). -/
def FieldBits (raw : Byte) (bit len : BitVec 3) (v : Byte) : Prop :=
  ∀ k, k < 8 →
    v.getLsbD k = (decide (k < fieldLen len) && raw.getLsbD ((k + (7 - bit.toNat)) % 8))

/-- `new` is `latch` with the field of `len` bits whose least significant bit is manual bit `bit`
replaced by the low bits of `res`; what would pass manual bit 0 is lost (R130, R131). -/
def MergedBits (latch res : Byte) (bit len : BitVec 3) (new : Byte) : Prop :=
  ∀ k, k < 8 →
    new.getLsbD k =
      if 7 - bit.toNat ≤ k ∧ k < 7 - bit.toNat + fieldLen len then res.getLsbD (k - (7 - bit.toNat))
      else latch.getLsbD k

/-- What a data operation makes of a source `v` and of AUX `a`: the result, and the flag after it
(R126, R127). -/
def AluGives (op : DataOp) (v a : Byte) (old : Bool) (res : Byte) (flag : Bool) : Prop :=
  match op with
  | .move => res = v ∧ flag = old
  | .add => res.toNat = (v.toNat + a.toNat) % 256 ∧ (flag = true ↔ 255 < v.toNat + a.toNat)
  | .and => (∀ k, k < 8 → res.getLsbD k = (v.getLsbD k && a.getLsbD k)) ∧ flag = old
  | .xor => (∀ k, k < 8 → res.getLsbD k = (v.getLsbD k != a.getLsbD k)) ∧ flag = old

/-- The word with operation code `op`, selector `sel` in the S position, `rl` and `low` below it
(R81, R82, R84). -/
def WordFields (w : IWord) (op sel rl low : Nat) : Prop :=
  w.toNat = op * 8192 + sel * 256 + rl * 32 + low

/-- The selector numbers (R87, R88): the two address registers. -/
def isAddrSel (n : Nat) : Prop := n = 7 ∨ n = 15

/-- The selector numbers at which there is no register: octal 12 to 16 (R23). -/
def isEmptySel (n : Nat) : Prop := 10 ≤ n ∧ n ≤ 14

/-- The table of R92: the words of each reserved class, by the fields OP, S, L and D of the word
as a number (R81). -/
def ReservedClass (w : IWord) : Reserved → Prop
  | .v1 => w.toNat / 8192 ≤ 3 ∧ isAddrSel (w.toNat / 256 % 32)
  | .v2 => w.toNat / 8192 ≤ 3 ∧ isEmptySel (w.toNat / 256 % 32)
  | .v3 => w.toNat / 8192 ≤ 3 ∧ ¬ isAddrSel (w.toNat / 256 % 32) ∧
      ¬ isEmptySel (w.toNat / 256 % 32) ∧ (w.toNat % 32 = 8 ∨ isEmptySel (w.toNat % 32))
  | .v4 => w.toNat / 8192 = 4 ∧
      (isAddrSel (w.toNat / 256 % 32) ∨ isEmptySel (w.toNat / 256 % 32))
  | .v5 => w.toNat / 8192 = 4 ∧ 16 ≤ w.toNat / 256 % 32 ∧
      (w.toNat / 32 % 8 = 0 ∨ w.toNat / 32 % 8 = 6 ∨ w.toNat / 32 % 8 = 7)
  | .v6 => w.toNat / 8192 = 5 ∧ isEmptySel (w.toNat / 256 % 32)
  | .v7 => w.toNat / 8192 = 5 ∧ w.toNat / 256 % 32 = 15 ∧ w.toNat % 256 ≠ 0
  | .v8 => w.toNat / 8192 = 6 ∧
      (w.toNat / 256 % 32 = 8 ∨ isEmptySel (w.toNat / 256 % 32))

/-! ## The shadow of an XEC (45_xec.md) -/

/-- The state after `k` steps that are all XEC, if the next `k` steps are. -/
def xecRun : Nat → State → Option State
  | 0, s => some s
  | k + 1, s =>
    match s.fetchInstr with
    | .ok i =>
      if isXec i then
        match step s with
        | .next t => xecRun k t
        | .fault _ => none
        | .refused _ => none
      else none
    | .error _ => none

end Sys2Proof.Machine
end

