-- ==== Sys2Proof/Certificates/Slice0/Obligations.lean ====
section
/-! DEFINITION. The statements for the provers. Each docstring names the rule of spec/ it formalises;
where a statement rests on a decision of the spec or of the model it says so. The vocabulary is
Sys2Proof/Safety.lean. -/

open Sys2Proof Sys2Proof.Machine

/-! ## Reset, invariant, runs -/

/-- Decision D17 of the spec (R38, R260, R261; assumption log 2): after reset `pc` = `ar` = 0, the
call stack and the I/O trace are empty. Nothing is said of the unspecified registers. -/
def Obligations.ResetStartsAtZeroWithEmptyStackAndTrace : Prop :=
  State.reset.pc = 0x0000#16 ∧ State.reset.ar = State.reset.pc ∧ State.reset.stk = [] ∧
    State.reset.trace = []

/-- The invariant of Safety.lean holds right after reset, whatever the free reset values are. -/
def Obligations.ResetMeetsTheInvariant : Prop := State.reset.Inv

/-- Every step keeps the invariant: program memory canonical, at most eight stacked addresses
(R32), each latch the byte last written on its bank (R35, R54). -/
def Obligations.StepKeepsTheInvariant : Prop :=
  ∀ s t : State, s.Inv → step s = .next t → t.Inv

/-- R50, R67: no run changes program memory. -/
def Obligations.RunsNeverChangeProgramMemory : Prop :=
  ∀ (n : Nat) (s t : State), RunsTo n s t → t.prog = s.prog

/-- R64: a run only adds to the I/O trace; no event is dropped, repeated or reordered. -/
def Obligations.RunsOnlyExtendTheTrace : Prop :=
  ∀ (n : Nat) (s t : State), RunsTo n s t → ∃ es, t.trace = s.trace ++ es ∧ es.length ≤ 2 * n

/-! ## Encoding -/

/-- R102, R103: decoding the word of a well-formed instruction gives it back. -/
def Obligations.DecodeOfEncodeIsTheInstruction : Prop :=
  ∀ i : Instr, i.wellFormed = true → decode (encode i) = .ok i

/-- R102, R103: a word that decodes is the word of the well-formed instruction it decodes to, so no
bit of it is dropped. -/
def Obligations.EncodeOfDecodeIsTheWord : Prop :=
  ∀ (w : IWord) (i : Instr), decode w = .ok i → encode i = w ∧ i.wellFormed = true

/-- R92: the decoder refuses exactly the words of the classes V1 to V8, each under its class. -/
def Obligations.ReservedWordsAreTheClassesV1ToV8 : Prop :=
  ∀ (w : IWord) (r : Reserved), decode w = .error r ↔ ReservedClass w r

/-- Words the source prints in binary (95_test_vectors.md S3, S9, S12, S19, S24, S27, S29, S30, S31,
S34, S35) decode to the instructions their sentences describe. -/
def Obligations.PrintedWordsDecode : Prop :=
  decode 0b0000100101110101#16 = .ok (.moveRv (.gpr .r11) 3#3 ⟨.left, 5#3⟩) ∧
  decode 0b0010001100001111#16 = .ok (.addRa (.gpr .r3) 0#3 .right) ∧
  decode 0b0011011110001001#16 = .ok (.addVr ⟨.left, 7#3⟩ 4#3 .r11) ∧
  decode 0b0101011110001111#16 = .ok (.andVa ⟨.left, 7#3⟩ 4#3 .right) ∧
  decode 0b0111011110010011#16 = .ok (.xorVv ⟨.left, 7#3⟩ 4#3 ⟨.left, 3#3⟩) ∧
  decode 0b1001010001110110#16 = .ok (.xecV ⟨.left, 4#3⟩ 3#3 22#5) ∧
  decode 0b1011010100101101#16 = .ok (.nztV ⟨.left, 5#3⟩ 1#3 13#5) ∧
  decode 0b1010011100110100#16 = .ok (.call 0x34#8) ∧
  decode 0b1010111100000000#16 = .ok .ret ∧
  decode 0b1101010110000110#16 = .ok (.xmitV ⟨.left, 5#3⟩ 4#3 6#5) ∧
  decode 0b1110000101001010#16 = .ok (.jmp 330#13)

/-! ## The step around the meanings -/

/-- R133: when `PROG` has at `ar` a word that decodes to `i`, and no Miss input holds `i` back, the
step is the meaning of `i`, the inputs having moved on; with no Miss level listed it is the meaning
of `i` in the very state. -/
def Obligations.StepRunsTheDecodedInstruction : Prop :=
  ∀ (s : State) (w : IWord) (i : Instr),
    s.progRead s.ar = some w → decode w = .ok i → s.pMissNow = false →
    (usesIoBus i = true → s.dMissNow = false) →
    step s = exec i s.passMiss ∧ (s.miss = [] → step s = exec i s)

/-- Decisions D5 to D7 and D20 (assumption log 5, 11): with `P_Miss` low, a fetch where `PROG` has
no word and a reserved word both stop the machine, under those names. -/
def Obligations.UnfetchableAndReservedWordsStop : Prop :=
  ∀ s : State, s.pMissNow = false →
    (s.progRead s.ar = none → step s = .fault (.fetchOutsideProgram s.ar)) ∧
    (∀ (w : IWord) (r : Reserved), s.progRead s.ar = some w → decode w = .error r →
      step s = .fault (.reservedEncoding w))

/-- R62 as the model reads it (assumption log 4): while a Miss input of a bus that the fetched
instruction needs is high, steps change nothing but the inputs; at a step with both low the
instruction does what it does without any Miss. -/
def Obligations.MissInputsOnlyDelay : Prop :=
  (∀ (s : State) (ms rest : List MissLevels),
    (∀ m ∈ ms, m.pMiss = true ∨
      (m.dMiss = true ∧ ∃ i, s.fetchInstr = .ok i ∧ usesIoBus i = true)) →
    RunsTo ms.length { s with miss := ms ++ rest } { s with miss := rest }) ∧
  (∀ (s t : State) (rest : List MissLevels), step { s with miss := [] } = .next t →
    step { s with miss := { pMiss := false, dMiss := false } :: rest } =
      .next { t with miss := rest })

/-- R62: an instruction that needs no I/O data bus is not held back by `D_Miss`. -/
def Obligations.DataMissHoldsBackOnlyIoInstructions : Prop :=
  ∀ (s t : State) (rest : List MissLevels) (i : Instr),
    s.fetchInstr = .ok i → usesIoBus i = false → step { s with miss := [] } = .next t →
    step { s with miss := { pMiss := false, dMiss := true } :: rest } =
      .next { t with miss := rest }

/-- The loader of the model (assumption log 5): a word placed by withFetchWord is the next to run,
and its instruction is the one the decoder reads from it. -/
def Obligations.LoadedWordRunsNext : Prop :=
  ∀ (s : State) (w : Nat) (i : Instr), w < 65536 → decodeTableWord 16 w = some i →
    step (s.withFetchWord 16 w) = exec i (s.withFetchWord 16 w)

/-! ## Whole-machine rules -/

/-- What each instruction may change (R24, R32, R37, R50, R128, R129, R130): a general register, an
address register, a latch only as its named destination; the flag only ADD; the call stack only CALL
and RET; program memory and the coming Miss levels never. -/
def Obligations.OnlyTheNamedDestinationChanges : Prop :=
  ∀ (i : Instr) (s t : State), exec i s = .next t →
    (∀ r, destReg i ≠ some r → t.regs.get r = s.regs.get r) ∧
    (∀ b, destIva i ≠ some b → t.iva.get b = s.iva.get b) ∧
    (∀ b, ioWriteBank i ≠ some b → t.ivl.get b = s.ivl.get b) ∧
    (isAdd i = false → KeepsOvf s t) ∧
    (((∀ imm, i ≠ .call imm) ∧ i ≠ .ret) → KeepsStk s t) ∧
    KeepsProg s t ∧ KeepsMiss s t

/-- R58: an instruction performs at most one read, of the bank of its source, then at most one
write, on the bank of its destination, of the byte its latch then holds (R54). Each event carries
the address of its bank; the order of the events is decision D25 (assumption log 17), that XMIT.v
reads nothing is conflict C8 and decision D16 (assumption log 15), that a read uses up one answer
of `ioIn` is the model's (assumption log 3). -/
def Obligations.AtMostOneReadThenOneWrite : Prop :=
  ∀ (i : Instr) (s t : State), exec i s = .next t →
    t.trace = s.trace ++ ((ioReadBank i).toList.map (readEvent s) ++
      (ioWriteBank i).toList.map (fun b => writeEvent s b (t.ivl.get b))) ∧
    t.ioIn = s.ioIn.drop (ioReadBank i).toList.length

/-- R133: every instruction but XEC leaves `ar` equal to `pc`; XEC leaves `pc` as it was, and one
that neither is XEC nor may jump adds 1 to `pc`. -/
def Obligations.AddressRegisterFollowsProgramCounter : Prop :=
  ∀ (i : Instr) (s t : State), exec i s = .next t →
    (isXec i = false → t.ar = t.pc) ∧ (isXec i = true → t.pc = s.pc) ∧
    (isXec i = false → mayJump i = false → t.pc = s.pc + 1#16)

/-- R27: the flag reaches nothing except through register octal 10. Changing it before an
instruction that does not name that register changes it after, and nothing else; after an ADD
nothing at all. -/
def Obligations.OverflowIsReadOnlyThroughRegisterTen : Prop :=
  ∀ (i : Instr) (s : State) (o : Bool), regSource i ≠ some .ovf →
    (∀ t, exec i s = .next t →
      exec i { s with ovf := o } = .next (if isAdd i then t else { t with ovf := o })) ∧
    (∀ f, exec i s = .fault f → exec i { s with ovf := o } = .fault f)

/-- R34: the address registers are write-only. An instruction that uses no I/O data bus does the
same whatever they hold. -/
def Obligations.AddressRegistersAreWriteOnly : Prop :=
  ∀ (i : Instr) (s : State) (p : PerBank), usesIoBus i = false →
    (∀ t, exec i s = .next t →
      exec i { s with iva := p } =
        .next { t with iva := (destIva i).elim p (fun b => p.set b (t.iva.get b)) }) ∧
    (∀ f, exec i s = .fault f → exec i { s with iva := p } = .fault f)

/-- R35: the latches cannot be read. An instruction without a bank data destination does the same
whatever they hold. -/
def Obligations.LatchesReachOnlyMerges : Prop :=
  ∀ (i : Instr) (s : State) (p : PerBank), ioWriteBank i = none →
    (∀ t, exec i s = .next t → exec i { s with ivl := p } = .next { t with ivl := p }) ∧
    (∀ f, exec i s = .fault f → exec i { s with ivl := p } = .fault f)

/-! ## Registers -/

/-- R20: the eight general registers are separate; a written byte is read back, the others stay. -/
def Obligations.GeneralRegistersAreSeparate : Prop :=
  ∀ (s : State) (r q : GReg) (v : Byte),
    (s.setReg r v).readSrc (.gpr q) = if q = r then v else s.readSrc (.gpr q)

/-- Decisions D12 and D27 (assumption log 6): register octal 10 reads as seven zeros and the flag.
-/
def Obligations.RegisterTenReadsTheFlag : Prop :=
  ∀ s : State, (s.readSrc .ovf).toNat = if s.ovf then 1 else 0

/-! ## MOVE, ADD, AND, XOR (40_datapath.md; moveRr to xorVa)

In each statement `v` is the source after rotate and mask, `res` and `flag` are what the ALU gives,
and the word is the one of R102. `s.readSrc src` is the spec's `x[S]`. -/

/-- R150, R170, R180 (MOVE.rr, AND.rr, XOR.rr): the register takes the result; the flag stays. -/
def Obligations.RegisterToRegisterForms : Prop :=
  ∀ (op : DataOp) (src : SReg) (rot : BitVec 3) (dst : GReg) (s : State), op ≠ .add →
    WordFields (encode (rrOf op src rot dst)) op.code.toNat src.num.toNat rot.toNat
      dst.num.toNat ∧
    ∃ v res flag t,
      RotatedBits (s.readSrc src) rot v ∧ AluGives op v (s.regs.get .aux) s.ovf res flag ∧
      exec (rrOf op src rot dst) s = .next t ∧
      t.regs.get dst = res ∧ t.ovf = flag ∧ KeepsRegsBut dst s t ∧ KeepsIva s t ∧ KeepsIvl s t ∧
      KeepsStk s t ∧ KeepsProg s t ∧ KeepsMiss s t ∧ NoIo s t ∧ FallsThrough s t

/-- R151, R171, R181 (MOVE.ra, AND.ra, XOR.ra): the address register of the bank takes the result;
no access, the latches stay. -/
def Obligations.RegisterToAddressRegisterForms : Prop :=
  ∀ (op : DataOp) (src : SReg) (rot : BitVec 3) (dst : Bank) (s : State), op ≠ .add →
    WordFields (encode (raOf op src rot dst)) op.code.toNat src.num.toNat rot.toNat
      (if dst = .left then 7 else 15) ∧
    ∃ v res flag t,
      RotatedBits (s.readSrc src) rot v ∧ AluGives op v (s.regs.get .aux) s.ovf res flag ∧
      exec (raOf op src rot dst) s = .next t ∧
      t.iva.get dst = res ∧ t.ovf = flag ∧ KeepsRegs s t ∧ KeepsIvaBut dst s t ∧ KeepsIvl s t ∧
      KeepsStk s t ∧ KeepsProg s t ∧ KeepsMiss s t ∧ NoIo s t ∧ FallsThrough s t

/-- R152, R162, R172, R182 (MOVE.rv, ADD.rv, AND.rv, XOR.rv): the register, not rotated and not
masked, through the ALU, merged into the latch of the bank and written out; no read. Of ADD.rv, the
flag is the unsigned carry (decision D11) of the whole addition (decision D13; assumption log 13); a
field past manual bit 0 is cut (decision D14; assumption log 14). -/
def Obligations.RegisterToFieldForms : Prop :=
  ∀ (op : DataOp) (src : SReg) (len : BitVec 3) (dst : IvSel) (s : State),
    WordFields (encode (rvOf op src len dst)) op.code.toNat src.num.toNat len.toNat
      ((if dst.bank = .left then 16 else 24) + dst.bit.toNat) ∧
    ∃ res flag new t,
      AluGives op (s.readSrc src) (s.regs.get .aux) s.ovf res flag ∧
      MergedBits (s.ivl.get dst.bank) res dst.bit len new ∧
      exec (rvOf op src len dst) s = .next t ∧
      t.ivl.get dst.bank = new ∧ OneWrite dst.bank new s t ∧ t.ovf = flag ∧ KeepsRegs s t ∧
      KeepsIva s t ∧ KeepsIvlBut dst.bank s t ∧ KeepsStk s t ∧ KeepsProg s t ∧ KeepsMiss s t ∧
      FallsThrough s t

/-- R153, R173, R183 (MOVE.vr, AND.vr, XOR.vr): one read; the register takes all 8 bits of the
result (conflict C7). A source field past manual bit 0 wraps, as R132 derives (assumption log 14);
the read takes the next answer of `ioIn` (assumption log 3). -/
def Obligations.FieldToRegisterForms : Prop :=
  ∀ (op : DataOp) (src : IvSel) (len : BitVec 3) (dst : GReg) (s : State), op ≠ .add →
    WordFields (encode (vrOf op src len dst)) op.code.toNat
      ((if src.bank = .left then 16 else 24) + src.bit.toNat) len.toNat dst.num.toNat ∧
    ∃ v res flag t,
      FieldBits (s.ioAnswer src.bank) src.bit len v ∧
      AluGives op v (s.regs.get .aux) s.ovf res flag ∧
      exec (vrOf op src len dst) s = .next t ∧
      t.regs.get dst = res ∧ t.ovf = flag ∧ OneRead src.bank s t ∧ KeepsRegsBut dst s t ∧
      KeepsIva s t ∧ KeepsIvl s t ∧ KeepsStk s t ∧ KeepsProg s t ∧ KeepsMiss s t ∧
      FallsThrough s t

/-- R154, R163, R174, R184 (MOVE.vv, ADD.vv, AND.vv, XOR.vv): one read, then one write of the
merge of the result into the destination bank's latch, which the byte read does not touch. Flag of
ADD.vv: decision D11 (assumption log 13); a destination field past manual bit 0 is cut: decision
D14, and a source field there wraps: R132 (assumption log 14); the read takes the next answer of
`ioIn` (assumption log 3). -/
def Obligations.FieldToFieldForms : Prop :=
  ∀ (op : DataOp) (src : IvSel) (len : BitVec 3) (dst : IvSel) (s : State),
    WordFields (encode (vvOf op src len dst)) op.code.toNat
      ((if src.bank = .left then 16 else 24) + src.bit.toNat) len.toNat
      ((if dst.bank = .left then 16 else 24) + dst.bit.toNat) ∧
    ∃ v res flag new t,
      FieldBits (s.ioAnswer src.bank) src.bit len v ∧
      AluGives op v (s.regs.get .aux) s.ovf res flag ∧
      MergedBits (s.ivl.get dst.bank) res dst.bit len new ∧
      exec (vvOf op src len dst) s = .next t ∧
      t.ivl.get dst.bank = new ∧ ReadThenWrite src.bank dst.bank new s t ∧ t.ovf = flag ∧
      KeepsRegs s t ∧ KeepsIva s t ∧ KeepsIvlBut dst.bank s t ∧ KeepsStk s t ∧ KeepsProg s t ∧
      KeepsMiss s t ∧ FallsThrough s t

/-- R155, R175, R185 (MOVE.va, AND.va, XOR.va): one read, at the old address even when both banks
are one; the address register takes all 8 bits of the result. A source field past manual bit 0
wraps, as R132 derives (assumption log 14); the read takes the next answer of `ioIn` (assumption
log 3). -/
def Obligations.FieldToAddressRegisterForms : Prop :=
  ∀ (op : DataOp) (src : IvSel) (len : BitVec 3) (dst : Bank) (s : State), op ≠ .add →
    WordFields (encode (vaOf op src len dst)) op.code.toNat
      ((if src.bank = .left then 16 else 24) + src.bit.toNat) len.toNat
      (if dst = .left then 7 else 15) ∧
    ∃ v res flag t,
      FieldBits (s.ioAnswer src.bank) src.bit len v ∧
      AluGives op v (s.regs.get .aux) s.ovf res flag ∧
      exec (vaOf op src len dst) s = .next t ∧
      t.iva.get dst = res ∧ t.ovf = flag ∧ OneRead src.bank s t ∧ KeepsRegs s t ∧
      KeepsIvaBut dst s t ∧ KeepsIvl s t ∧ KeepsStk s t ∧ KeepsProg s t ∧ KeepsMiss s t ∧
      FallsThrough s t

/-- ADD.rr (R160): the 8-bit sum with AUX to the register. That the flag is the carry of the
unsigned addition is decision D11 of the spec (assumption log 13). -/
def Obligations.AddRegisterToRegister : Prop :=
  ∀ (src : SReg) (rot : BitVec 3) (dst : GReg) (s : State),
    WordFields (encode (.addRr src rot dst)) 1 src.num.toNat rot.toNat
      dst.num.toNat ∧
    ∃ v res flag t,
      RotatedBits (s.readSrc src) rot v ∧ AluGives .add v (s.regs.get .aux) s.ovf res flag ∧
      exec (.addRr src rot dst) s = .next t ∧
      t.regs.get dst = res ∧ t.ovf = flag ∧ KeepsRegsBut dst s t ∧ KeepsIva s t ∧ KeepsIvl s t ∧
      KeepsStk s t ∧ KeepsProg s t ∧ KeepsMiss s t ∧ NoIo s t ∧ FallsThrough s t

/-- ADD.ra (R161): the sum to the address register of the bank; no access. Flag: decision D11
(assumption log 13). -/
def Obligations.AddRegisterToAddressRegister : Prop :=
  ∀ (src : SReg) (rot : BitVec 3) (dst : Bank) (s : State),
    WordFields (encode (.addRa src rot dst)) 1 src.num.toNat rot.toNat
      (if dst = .left then 7 else 15) ∧
    ∃ v res flag t,
      RotatedBits (s.readSrc src) rot v ∧ AluGives .add v (s.regs.get .aux) s.ovf res flag ∧
      exec (.addRa src rot dst) s = .next t ∧
      t.iva.get dst = res ∧ t.ovf = flag ∧ KeepsRegs s t ∧ KeepsIvaBut dst s t ∧ KeepsIvl s t ∧
      KeepsStk s t ∧ KeepsProg s t ∧ KeepsMiss s t ∧ NoIo s t ∧ FallsThrough s t

/-- ADD.vr (R164): one read; all 8 bits of the sum to the register (conflict C7). Flag: decision D11
(assumption log 13); source field and read: assumption log 14 and 3. -/
def Obligations.AddFieldToRegister : Prop :=
  ∀ (src : IvSel) (len : BitVec 3) (dst : GReg) (s : State),
    WordFields (encode (.addVr src len dst)) 1
      ((if src.bank = .left then 16 else 24) + src.bit.toNat) len.toNat dst.num.toNat ∧
    ∃ v res flag t,
      FieldBits (s.ioAnswer src.bank) src.bit len v ∧
      AluGives .add v (s.regs.get .aux) s.ovf res flag ∧
      exec (.addVr src len dst) s = .next t ∧
      t.regs.get dst = res ∧ t.ovf = flag ∧ OneRead src.bank s t ∧ KeepsRegsBut dst s t ∧
      KeepsIva s t ∧ KeepsIvl s t ∧ KeepsStk s t ∧ KeepsProg s t ∧ KeepsMiss s t ∧
      FallsThrough s t

/-- ADD.va (R165): one read at the old address; all 8 bits of the sum to the address register. Flag:
decision D11 (assumption log 13); source field and read: assumption log 14 and 3. -/
def Obligations.AddFieldToAddressRegister : Prop :=
  ∀ (src : IvSel) (len : BitVec 3) (dst : Bank) (s : State),
    WordFields (encode (.addVa src len dst)) 1
      ((if src.bank = .left then 16 else 24) + src.bit.toNat) len.toNat
      (if dst = .left then 7 else 15) ∧
    ∃ v res flag t,
      FieldBits (s.ioAnswer src.bank) src.bit len v ∧
      AluGives .add v (s.regs.get .aux) s.ovf res flag ∧
      exec (.addVa src len dst) s = .next t ∧
      t.iva.get dst = res ∧ t.ovf = flag ∧ OneRead src.bank s t ∧ KeepsRegs s t ∧
      KeepsIvaBut dst s t ∧ KeepsIvl s t ∧ KeepsStk s t ∧ KeepsProg s t ∧ KeepsMiss s t ∧
      FallsThrough s t

/-- R96, R156: NOP, and MOVE of any general register to itself with no rotation, change only `pc`
and `ar`; NOP does what `MOVE AUX(0), AUX` does, whose word it has. -/
def Obligations.NopAndItsEquivalentsOnlyAdvance : Prop :=
  ∀ s : State,
    encode .nop = 0x0000#16 ∧ encode (.moveRr (.gpr .aux) 0#3 .aux) = 0x0000#16 ∧
    exec .nop s = .next { s with pc := s.pc + 1#16, ar := s.pc + 1#16 } ∧
    ∀ r, exec (.moveRr (.gpr r) 0#3 r) s = exec .nop s

/-- R56 (b): after the address register of a bank changes, a field write on that bank fills the
unselected bits from the byte last written at the old address. -/
def Obligations.FieldWriteAfterAddressChangeUsesTheOldLatch : Prop :=
  ∀ (s : State) (b : Bank) (a : Byte) (src : SReg) (len bit : BitVec 3),
    ∃ t u, exec (.xmitA b a) s = .next t ∧ exec (.moveRv src len ⟨b, bit⟩) t = .next u ∧
      MergedBits (s.ivl.get b) (s.readSrc src) bit len (u.ivl.get b) ∧
      u.trace = s.trace ++ [.write b a (u.ivl.get b)]

/-- R53: two reads of one address may return different bytes. -/
def Obligations.TwoReadsOfOneAddressMayDiffer : Prop :=
  ∃ s t u : State,
    exec (.moveVr ⟨.left, 7#3⟩ 0#3 .r1) s = .next t ∧
    exec (.moveVr ⟨.left, 7#3⟩ 0#3 .r2) t = .next u ∧
    t.iva = s.iva ∧ u.regs.get .r1 ≠ u.regs.get .r2

/-! ## XEC -/

/-- R190 (XEC.r): the low 8 bits of `ar` take the 8-bit sum; `pc`, the flag and everything else
stay. -/
def Obligations.XecRegisterReplacesLowAddressByte : Prop :=
  ∀ (src : SReg) (imm : BitVec 8) (s : State),
    (encode (.xecR src imm)).toNat = 4 * 8192 + src.num.toNat * 256 + imm.toNat ∧
    ∃ t, exec (.xecR src imm) s = .next t ∧
      t.ar.toNat = s.ar.toNat / 256 * 256 + ((s.readSrc src).toNat + imm.toNat) % 256 ∧
      t.pc = s.pc ∧ KeepsRegs s t ∧ KeepsOvf s t ∧ KeepsIva s t ∧ KeepsIvl s t ∧ KeepsStk s t ∧
      KeepsProg s t ∧ KeepsMiss s t ∧ NoIo s t

/-- R191 (XEC.v), L in 1 to 5 (other L: decision D6, assumption log 11): one read; the low 5 bits
of `ar` take the 5-bit sum of field and immediate; everything else stays. Source field and read:
assumption log 14 and 3. -/
def Obligations.XecFieldReplacesLowFiveAddressBits : Prop :=
  ∀ (src : IvSel) (len : BitVec 3) (imm : BitVec 5) (s : State),
    1 ≤ len.toNat → len.toNat ≤ 5 →
    WordFields (encode (.xecV src len imm)) 4
      ((if src.bank = .left then 16 else 24) + src.bit.toNat) len.toNat imm.toNat ∧
    ∃ v t, FieldBits (s.ioAnswer src.bank) src.bit len v ∧
      exec (.xecV src len imm) s = .next t ∧
      t.ar.toNat = s.ar.toNat / 32 * 32 + (v.toNat + imm.toNat) % 32 ∧
      t.pc = s.pc ∧ OneRead src.bank s t ∧ KeepsRegs s t ∧ KeepsOvf s t ∧ KeepsIva s t ∧
      KeepsIvl s t ∧ KeepsStk s t ∧ KeepsProg s t ∧ KeepsMiss s t

/-- R192 and decision D18 (R194; assumption log 16): after a chain of `k` XECs (one is the plain
case) an instruction that is no XEC and may not jump runs with its fetch address the XEC target,
and leaves `pc` and `ar` one past the first XEC of the chain. An untaken NZT is the last statement
of this file. -/
def Obligations.XecTargetReturnsPastTheFirstXec : Prop :=
  ∀ (k : Nat) (s u t : State) (i : Instr),
    s.miss = [] → s.pc = s.ar → xecRun k s = some u → u.fetchInstr = .ok i →
    isXec i = false → mayJump i = false → step u = .next t →
    t.pc = s.ar + 1#16 ∧ t.ar = s.ar + 1#16

/-- R193 and decision D18 (R194; assumption log 16): in the shadow of an XEC at `s.ar`, JMP and a
taken NZT.r do not come back; CALL pushes the address after the XEC. -/
def Obligations.JumpsInTheShadowOfAnXec : Prop :=
  ∀ (s u : State), s.miss = [] → s.pc = s.ar → xecRun 1 s = some u →
    (∀ a, u.fetchInstr = .ok (.jmp a) →
      ∃ t, step u = .next t ∧ t.pc.toNat = a.toNat ∧ t.ar = t.pc) ∧
    (∀ src imm, u.fetchInstr = .ok (.nztR src imm) → u.readSrc src ≠ 0#8 →
      ∃ t, step u = .next t ∧ t.pc.toNat = s.ar.toNat / 256 * 256 + imm.toNat ∧ t.ar = t.pc) ∧
    (∀ imm, u.fetchInstr = .ok (.call imm) → s.stk.length < 8 →
      ∃ t, step u = .next t ∧ t.stk = s.stk ++ [s.ar + 1#16] ∧
        t.pc.toNat = (s.regs.get .aux).toNat * 256 + imm.toNat ∧ t.ar = t.pc)

/-! ## NZT, CALL, RET -/

/-- R200 (NZT.r), upper bits from the fetch address (decision D4; assumption log 9): the low byte
replaced when the register is not zero, the next address when it is; nothing else changes. -/
def Obligations.NztRegisterJumpsInsideThePage : Prop :=
  ∀ (src : SReg) (imm : BitVec 8) (s : State),
    (encode (.nztR src imm)).toNat = 5 * 8192 + src.num.toNat * 256 + imm.toNat ∧
    ∃ t, exec (.nztR src imm) s = .next t ∧
      (s.readSrc src ≠ 0#8 → t.pc.toNat = s.ar.toNat / 256 * 256 + imm.toNat) ∧
      (s.readSrc src = 0#8 → t.pc = s.pc + 1#16) ∧ t.ar = t.pc ∧
      KeepsRegs s t ∧ KeepsOvf s t ∧ KeepsIva s t ∧ KeepsIvl s t ∧ KeepsStk s t ∧ KeepsProg s t ∧
      KeepsMiss s t ∧ NoIo s t

/-- R201 (NZT.v), every L, upper bits from the fetch address (decision D4; assumption log 9): one
read whether or not the jump is taken. Source field and read: assumption log 14 and 3. -/
def Obligations.NztFieldJumpsInsideTheBlock : Prop :=
  ∀ (src : IvSel) (len : BitVec 3) (imm : BitVec 5) (s : State),
    WordFields (encode (.nztV src len imm)) 5
      ((if src.bank = .left then 16 else 24) + src.bit.toNat) len.toNat imm.toNat ∧
    ∃ v t, FieldBits (s.ioAnswer src.bank) src.bit len v ∧
      exec (.nztV src len imm) s = .next t ∧
      (v ≠ 0#8 → t.pc.toNat = s.ar.toNat / 32 * 32 + imm.toNat) ∧
      (v = 0#8 → t.pc = s.pc + 1#16) ∧ t.ar = t.pc ∧ OneRead src.bank s t ∧
      KeepsRegs s t ∧ KeepsOvf s t ∧ KeepsIva s t ∧ KeepsIvl s t ∧ KeepsStk s t ∧ KeepsProg s t ∧
      KeepsMiss s t

/-- R202 (CALL) below the eighth level (at it: decision D8, the next statement): the incremented
`pc` is pushed, and `pc` and `ar` take AUX as high byte and the immediate as low byte. -/
def Obligations.CallPushesAndJumpsToThePage : Prop :=
  ∀ (imm : BitVec 8) (s : State), s.stk.length < 8 →
    (encode (.call imm)).toNat = 5 * 8192 + 7 * 256 + imm.toNat ∧
    ∃ t, exec (.call imm) s = .next t ∧ t.stk = s.stk ++ [s.pc + 1#16] ∧
      t.pc.toNat = (s.regs.get .aux).toNat * 256 + imm.toNat ∧ t.ar = t.pc ∧
      KeepsRegs s t ∧ KeepsOvf s t ∧ KeepsIva s t ∧ KeepsIvl s t ∧ KeepsProg s t ∧
      KeepsMiss s t ∧ NoIo s t

/-- Decision D8 (assumption log 12): CALL with eight addresses stacked has no stated meaning. -/
def Obligations.NinthCallStops : Prop :=
  ∀ (imm : BitVec 8) (s : State), s.stk.length = 8 →
    exec (.call imm) s = .fault .callStackOverflow

/-- R203 (RET) with an entry stacked (without one: decision D9, the next statement): the newest
goes to `pc` and `ar`, the rest stays stacked. -/
def Obligations.RetPopsTheNewestEntry : Prop :=
  ∀ (s : State) (rest : List Addr) (a : Addr), s.stk = rest ++ [a] →
    encode .ret = 0xAF00#16 ∧
    ∃ t, exec .ret s = .next t ∧ t.pc = a ∧ t.ar = a ∧ t.stk = rest ∧
      KeepsRegs s t ∧ KeepsOvf s t ∧ KeepsIva s t ∧ KeepsIvl s t ∧ KeepsProg s t ∧
      KeepsMiss s t ∧ NoIo s t

/-- Decision D9 (assumption log 12): RET on an empty stack, which the source calls undefined. -/
def Obligations.RetOnEmptyStackStops : Prop :=
  ∀ s : State, s.stk = [] → exec .ret s = .fault .returnOnEmptyStack

/-- R202, R203: RET at the end of a subroutine that restored nothing else undoes CALL but for `pc`
and `ar`, which hold the address after the CALL. -/
def Obligations.RetUndoesCall : Prop :=
  ∀ (imm : BitVec 8) (s : State), s.stk.length < 8 →
    ∃ t, exec (.call imm) s = .next t ∧
      exec .ret t = .next { s with pc := s.pc + 1#16, ar := s.pc + 1#16 }

/-! ## XMIT, JMP -/

/-- R215 (XMIT.r). -/
def Obligations.XmitLoadsARegister : Prop :=
  ∀ (dst : GReg) (imm : BitVec 8) (s : State),
    (encode (.xmitR dst imm)).toNat = 6 * 8192 + dst.num.toNat * 256 + imm.toNat ∧
    ∃ t, exec (.xmitR dst imm) s = .next t ∧ t.regs.get dst = imm ∧ KeepsRegsBut dst s t ∧
      KeepsOvf s t ∧ KeepsIva s t ∧ KeepsIvl s t ∧ KeepsStk s t ∧ KeepsProg s t ∧ KeepsMiss s t ∧
      NoIo s t ∧ FallsThrough s t

/-- R216 (XMIT.a): no data moves and the latches stay. -/
def Obligations.XmitLoadsAnAddressRegister : Prop :=
  ∀ (dst : Bank) (imm : BitVec 8) (s : State),
    (encode (.xmitA dst imm)).toNat =
      6 * 8192 + (if dst = .left then 7 else 15) * 256 + imm.toNat ∧
    ∃ t, exec (.xmitA dst imm) s = .next t ∧ t.iva.get dst = imm ∧ KeepsIvaBut dst s t ∧
      KeepsRegs s t ∧ KeepsOvf s t ∧ KeepsIvl s t ∧ KeepsStk s t ∧ KeepsProg s t ∧
      KeepsMiss s t ∧ NoIo s t ∧ FallsThrough s t

/-- R217 (XMIT.v): the zero-extended immediate merged into the latch and written out; no read
(conflict C8, decision D16; assumption log 15); a field past manual bit 0 is cut: decision D14
(assumption log 14). -/
def Obligations.XmitWritesAField : Prop :=
  ∀ (dst : IvSel) (len : BitVec 3) (imm : BitVec 5) (s : State),
    WordFields (encode (.xmitV dst len imm)) 6
      ((if dst.bank = .left then 16 else 24) + dst.bit.toNat) len.toNat imm.toNat ∧
    ∃ res new t, res.toNat = imm.toNat ∧
      MergedBits (s.ivl.get dst.bank) res dst.bit len new ∧
      exec (.xmitV dst len imm) s = .next t ∧
      t.ivl.get dst.bank = new ∧ OneWrite dst.bank new s t ∧ KeepsRegs s t ∧ KeepsOvf s t ∧
      KeepsIva s t ∧ KeepsIvlBut dst.bank s t ∧ KeepsStk s t ∧ KeepsProg s t ∧ KeepsMiss s t ∧
      FallsThrough s t

/-- R225 (JMP); the zero-extension is decision D2 (assumption log 10). -/
def Obligations.JmpLoadsTheZeroExtendedTarget : Prop :=
  ∀ (a : BitVec 13) (s : State),
    (encode (.jmp a)).toNat = 7 * 8192 + a.toNat ∧
    ∃ t, exec (.jmp a) s = .next t ∧ t.pc.toNat = a.toNat ∧ t.ar = t.pc ∧
      KeepsRegs s t ∧ KeepsOvf s t ∧ KeepsIva s t ∧ KeepsIvl s t ∧ KeepsStk s t ∧ KeepsProg s t ∧
      KeepsMiss s t ∧ NoIo s t

/-- R266 (decision D26; assumption log 21): with `pc` = `ar` = a, below 0x2000, a JMP to a at a is
a fixed point, and so is the machine's whole run from there. -/
def Obligations.JmpToItselfIsAFixedPoint : Prop :=
  ∀ (s : State) (a : BitVec 13) (n : Nat),
    s.miss = [] → s.pc = s.ar → s.ar.toNat = a.toNat →
    s.progRead s.ar = some (encode (.jmp a)) → step s = .next s ∧ RunsTo n s s

/-! ## An untaken NZT in the shadow of an XEC -/

/-- R192 counts an untaken NZT among the targets that do not jump: after a chain of `k` XECs
(decision D18; assumption log 16) it too completes with `pc` and `ar` one past the first XEC. -/
def Obligations.UntakenNztReturnsPastTheFirstXec : Prop :=
  ∀ (k : Nat) (s u : State), s.miss = [] → s.pc = s.ar → xecRun k s = some u →
    (∀ src imm, u.fetchInstr = .ok (.nztR src imm) → u.readSrc src = 0#8 →
      ∃ t, step u = .next t ∧ t.pc = s.ar + 1#16 ∧ t.ar = s.ar + 1#16) ∧
    (∀ src len imm, u.fetchInstr = .ok (.nztV src len imm) →
      FieldBits (u.ioAnswer src.bank) src.bit len 0#8 →
      ∃ t, step u = .next t ∧ t.pc = s.ar + 1#16 ∧ t.ar = s.ar + 1#16)
end

