-- ==== Sys2Proof/Laws/Encoding.lean ====
section
/-! SUPPORT. The fields of an encoded word, and the operand classes of the numbers the encoder
writes. -/

namespace Sys2Proof

/-- Two bit strings one above the other, as a number. -/
theorem toNat_append_eq {n m : Nat} (x : BitVec n) (y : BitVec m) :
    (x ++ y).toNat = x.toNat * 2 ^ m + y.toNat := by
  rw [BitVec.toNat_append, ← Nat.shiftLeft_add_eq_or_of_lt y.isLt, Nat.shiftLeft_eq]

section
variable (op : BitVec 3) (s : BitVec 5) (rl : BitVec 3) (d : BitVec 5) (i : BitVec 8)
  (a : BitVec 13)

theorem wordRd_toNat :
    (wordRd op s rl d).toNat = op.toNat * 8192 + s.toNat * 256 + rl.toNat * 32 + d.toNat := by
  unfold wordRd
  rw [toNat_append_eq, toNat_append_eq, toNat_append_eq]
  omega

theorem wordI8_toNat :
    (wordI8 op s i).toNat = op.toNat * 8192 + s.toNat * 256 + i.toNat := by
  unfold wordI8
  rw [toNat_append_eq, toNat_append_eq]
  omega

theorem wordLi5_eq_wordRd : wordLi5 op s rl d = wordRd op s rl d := rfl

theorem wordA_toNat : (wordA op a).toNat = op.toNat * 8192 + a.toNat := by
  unfold wordA
  rw [toNat_append_eq]
  norm_num

/-- A field of a word is a quotient and a remainder of its number (R81). -/
theorem extract_toNat {n : Nat} (w : BitVec n) (lo len : Nat) :
    (w.extractLsb' lo len).toNat = w.toNat / 2 ^ lo % 2 ^ len := by
  rw [BitVec.extractLsb'_toNat, Nat.shiftRight_eq_div_pow]

@[simp] theorem fieldOp_wordRd : fieldOp (wordRd op s rl d) = op := by
  apply BitVec.eq_of_toNat_eq
  unfold fieldOp
  rw [extract_toNat, wordRd_toNat]
  omega

@[simp] theorem fieldS_wordRd : fieldS (wordRd op s rl d) = s := by
  apply BitVec.eq_of_toNat_eq
  unfold fieldS
  rw [extract_toNat, wordRd_toNat]
  omega

@[simp] theorem fieldRL_wordRd : fieldRL (wordRd op s rl d) = rl := by
  apply BitVec.eq_of_toNat_eq
  unfold fieldRL
  rw [extract_toNat, wordRd_toNat]
  omega

@[simp] theorem fieldD_wordRd : fieldD (wordRd op s rl d) = d := by
  apply BitVec.eq_of_toNat_eq
  unfold fieldD
  rw [extract_toNat, wordRd_toNat]
  omega

@[simp] theorem fieldI5_wordRd : fieldI5 (wordRd op s rl d) = d := by
  apply BitVec.eq_of_toNat_eq
  unfold fieldI5
  rw [extract_toNat, wordRd_toNat]
  omega

@[simp] theorem fieldOp_wordI8 : fieldOp (wordI8 op s i) = op := by
  apply BitVec.eq_of_toNat_eq
  unfold fieldOp
  rw [extract_toNat, wordI8_toNat]
  omega

@[simp] theorem fieldS_wordI8 : fieldS (wordI8 op s i) = s := by
  apply BitVec.eq_of_toNat_eq
  unfold fieldS
  rw [extract_toNat, wordI8_toNat]
  omega

@[simp] theorem fieldI8_wordI8 : fieldI8 (wordI8 op s i) = i := by
  apply BitVec.eq_of_toNat_eq
  unfold fieldI8
  rw [extract_toNat, wordI8_toNat]
  omega

@[simp] theorem fieldOp_wordA : fieldOp (wordA op a) = op := by
  apply BitVec.eq_of_toNat_eq
  unfold fieldOp
  rw [extract_toNat, wordA_toNat]
  omega

@[simp] theorem fieldA_wordA : fieldA (wordA op a) = a := by
  apply BitVec.eq_of_toNat_eq
  unfold fieldA
  rw [extract_toNat, wordA_toNat]
  omega

end

/-! ## Operand numbers (R87, R88) -/

@[simp] theorem classS_reg (r : SReg) : classS r.num = .reg r := by
  cases r with
  | gpr r => cases r <;> rfl
  | ovf => rfl

@[simp] theorem classS_iva (b : Bank) : classS b.addrNum = .iva b := by cases b <;> rfl

@[simp] theorem classS_iv (f : IvSel) : classS f.num = .iv f := by
  obtain ⟨b, k⟩ := f
  revert k
  cases b <;> decide

@[simp] theorem classD_reg (r : GReg) : classD r.num = .reg r := by cases r <;> rfl

@[simp] theorem classD_iva (b : Bank) : classD b.addrNum = .iva b := by cases b <;> rfl

@[simp] theorem classD_iv (f : IvSel) : classD f.num = .iv f := by
  unfold classD
  rw [classS_iv]

/-- A selector of class `reg` is the number of its register. -/
theorem num_of_classS_reg {f : BitVec 5} {r : SReg} (h : classS f = .reg r) : r.num = f := by
  revert f; cases r with
  | gpr r => cases r <;> decide
  | ovf => decide

/-- A selector of class `iva` is octal 07 or 17. -/
theorem num_of_classS_iva {f : BitVec 5} {b : Bank} (h : classS f = .iva b) : b.addrNum = f := by
  revert f; cases b <;> decide

/-- A selector of class `iv` is the number of its field. -/
theorem num_of_classS_iv {f : BitVec 5} {v : IvSel} (h : classS f = .iv v) : v.num = f := by
  have key : ∀ g : BitVec 5,
      (match classS g with | .iv u => decide (u.num = g) | _ => true) = true := by decide
  have := key f
  rw [h] at this
  exact of_decide_eq_true this

theorem num_of_classD_reg {f : BitVec 5} {r : GReg} (h : classD f = .reg r) : r.num = f := by
  revert f; cases r <;> decide

theorem num_of_classD_iva {f : BitVec 5} {b : Bank} (h : classD f = .iva b) : b.addrNum = f := by
  revert f; cases b <;> decide

theorem num_of_classD_iv {f : BitVec 5} {v : IvSel} (h : classD f = .iv v) : v.num = f := by
  have key : ∀ g : BitVec 5,
      (match classD g with | .iv u => decide (u.num = g) | _ => true) = true := by decide
  have := key f
  rw [h] at this
  exact of_decide_eq_true this

/-- A word is its four fields. -/
theorem wordRd_fields (w : IWord) : wordRd (fieldOp w) (fieldS w) (fieldRL w) (fieldD w) = w := by
  apply BitVec.eq_of_toNat_eq
  rw [wordRd_toNat]
  simp only [fieldOp, fieldS, fieldRL, fieldD, extract_toNat]
  omega

theorem wordI8_fields (w : IWord) : wordI8 (fieldOp w) (fieldS w) (fieldI8 w) = w := by
  apply BitVec.eq_of_toNat_eq
  rw [wordI8_toNat]
  simp only [fieldOp, fieldS, fieldI8, extract_toNat]
  omega

theorem wordA_fields (w : IWord) : wordA (fieldOp w) (fieldA w) = w := by
  apply BitVec.eq_of_toNat_eq
  rw [wordA_toNat]
  simp only [fieldOp, fieldA, extract_toNat]
  omega

end Sys2Proof
end

