-- ==== Sys2Proof/Laws/Memory.lean ====
section
/-! SUPPORT. Program memory: reading after writing, and the canonical form. -/

namespace Sys2Proof.Machine

@[simp] theorem Memory.read_write_same (m : Memory) (a : Nat) (w : IWord) :
    (m.write a w).read a = some w := by
  induction m with
  | nil => simp [Memory.write, Memory.read]
  | cons c m ih =>
    obtain ⟨k, v⟩ := c
    unfold Memory.write
    split
    · simp [Memory.read]
    · split
      · simp [Memory.read]
      · rename_i h1 h2
        simp [Memory.read, Ne.symm h2, ih]

theorem Memory.read_write_other (m : Memory) {a b : Nat} (w : IWord) (h : b ≠ a) :
    (m.write a w).read b = m.read b := by
  induction m with
  | nil => simp [Memory.write, Memory.read, Ne.symm h]
  | cons c m ih =>
    obtain ⟨k, v⟩ := c
    unfold Memory.write
    split
    · simp [Memory.read, Ne.symm h]
    · split
      · rename_i h2
        subst h2
        simp [Memory.read, Ne.symm h]
      · simp [Memory.read, ih]

theorem Memory.wfFrom_write {m : Memory} {lo a : Nat} (w : IWord) (hlo : lo ≤ a) (ha : a < 65536)
    (h : Memory.wfFrom lo m = true) : Memory.wfFrom lo (m.write a w) = true := by
  induction m generalizing lo with
  | nil => simp [Memory.write, Memory.wfFrom, hlo, ha]
  | cons c m ih =>
    obtain ⟨k, v⟩ := c
    simp only [Memory.wfFrom, Bool.and_eq_true, decide_eq_true_eq] at h
    unfold Memory.write
    split
    · simp only [Memory.wfFrom, Bool.and_eq_true, decide_eq_true_eq]
      exact ⟨⟨hlo, ha⟩, ⟨by omega, h.1.2⟩, h.2⟩
    · split
      · rename_i h2
        subst h2
        simp only [Memory.wfFrom, Bool.and_eq_true, decide_eq_true_eq]
        exact h
      · simp only [Memory.wfFrom, Bool.and_eq_true, decide_eq_true_eq]
        exact ⟨h.1, ih (by omega) h.2⟩

/-- Placing a word inside the address space keeps the canonical form. -/
theorem Memory.wf_write {m : Memory} {a : Nat} (w : IWord) (ha : a < 65536) (h : m.wf = true) :
    (m.write a w).wf = true := Memory.wfFrom_write w (Nat.zero_le a) ha h

/-- Loading an instruction keeps the canonical form. -/
theorem State.wf_withFetchWord {s : State} (nbits w : Nat) (h : s.prog.wf = true) :
    (s.withFetchWord nbits w).prog.wf = true :=
  Memory.wf_write _ s.ar.isLt h

/-- The memory after reset has the canonical form. -/
theorem State.reset_prog_wf : State.reset.prog.wf = true := rfl

theorem lastWrite_append_read (b b' : Bank) (es : List IoEvent) (a v : Byte) :
    lastWrite b (es ++ [.read b' a v]) = lastWrite b es := by
  induction es with
  | nil => rfl
  | cons e es ih => cases e <;> simp [lastWrite, ih]

theorem lastWrite_append_write (b b' : Bank) (es : List IoEvent) (a v : Byte) :
    lastWrite b (es ++ [.write b' a v]) = if b' = b then some v else lastWrite b es := by
  induction es with
  | nil => simp [lastWrite]
  | cons e es ih =>
    cases e with
    | read c a' u => simpa [lastWrite] using ih
    | write c a' u =>
      simp only [List.cons_append, lastWrite, ih]
      split
      · rename_i h
        split at h <;> simp_all
      · rename_i h
        split at h <;> simp_all

end Sys2Proof.Machine
end

