-- ==== Sys2Proof/Laws/Operands.lean ====
section
/-! SUPPORT. The units of the data path, bit by bit, and the ALU and its flag as arithmetic. -/

namespace Sys2Proof.Machine

theorem fieldLen_pos (len : BitVec 3) : 1 ≤ fieldLen len := by
  unfold fieldLen
  split
  · omega
  · rename_i h
    have : len.toNat ≠ 0 := fun h0 => h (BitVec.eq_of_toNat_eq h0)
    omega

theorem fieldLen_le (len : BitVec 3) : fieldLen len ≤ 8 := by
  unfold fieldLen
  split <;> omega

/-- R121: the bit of weight `k` after the rotation came from weight `(k + n) mod 8`. -/
theorem getLsbD_rotr8 (v : Byte) (n k : Nat) (hn : n < 8) (hk : k < 8) :
    (rotr8 v n).getLsbD k = v.getLsbD ((k + n) % 8) := by
  unfold rotr8
  rw [BitVec.getLsbD_or, BitVec.getLsbD_ushiftRight, BitVec.getLsbD_shiftLeft]
  by_cases h : k + n < 8
  · rw [Nat.mod_eq_of_lt h, Nat.add_comm n k]
    simp only [show k < 8 - n by omega, decide_true, Bool.not_true, Bool.and_false,
      Bool.false_and, Bool.or_false]
  · rw [Nat.mod_eq_sub_mod (by omega), Nat.mod_eq_of_lt (by omega : k + n - 8 < 8),
      BitVec.getLsbD_of_ge v (n + k) (by omega), show k + n - 8 = k - (8 - n) by omega]
    simp [hk, show ¬ k < 8 - n by omega]

theorem rotr8_bits (v : Byte) (rot : BitVec 3) : RotatedBits v rot (rotr8 v rot.toNat) :=
  fun k hk => getLsbD_rotr8 v rot.toNat k rot.isLt hk

/-- R122: the mask has the `len(L)` least significant bits set. -/
theorem getLsbD_mask8 (len : BitVec 3) (k : Nat) (hk : k < 8) :
    (mask8 len).getLsbD k = decide (k < fieldLen len) := by
  unfold mask8
  rw [BitVec.getLsbD_ofNat, Nat.testBit_two_pow_sub_one]
  simp [hk]

/-- R125, R132. -/
theorem extractField_bits (raw : Byte) (bit len : BitVec 3) :
    FieldBits raw bit len (extractField raw bit len) := by
  intro k hk
  unfold extractField
  rw [BitVec.getLsbD_and, getLsbD_rotr8 raw _ k (by unfold alignment; omega) hk,
    getLsbD_mask8 len k hk, Bool.and_comm]
  rfl

theorem getLsbD_shl8 (v : Byte) (n k : Nat) (hk : k < 8) :
    (shl8 v n).getLsbD k = (decide (n ≤ k) && v.getLsbD (k - n)) := by
  unfold shl8
  rw [BitVec.getLsbD_shiftLeft]
  by_cases h : k < n <;> simp [hk, h, show (n ≤ k) ↔ ¬ k < n by omega]

/-- R130, R131: the destination field, cut at the most significant end. -/
theorem getLsbD_fieldMask (bit len : BitVec 3) (k : Nat) (hk : k < 8) :
    (fieldMask bit len).getLsbD k =
      decide (7 - bit.toNat ≤ k ∧ k < 7 - bit.toNat + fieldLen len) := by
  unfold fieldMask alignment
  rw [getLsbD_shl8 _ _ k hk, getLsbD_mask8 len _ (by omega)]
  by_cases h : 7 - bit.toNat ≤ k
  · simp [h, show (k - (7 - bit.toNat) < fieldLen len) ↔ (k < 7 - bit.toNat + fieldLen len) by omega]
  · simp [h]

/-- R130. -/
theorem mergeField_bits (latch res : Byte) (bit len : BitVec 3) :
    MergedBits latch res bit len (mergeField latch res bit len) := by
  intro k hk
  unfold mergeField
  rw [BitVec.getLsbD_or, BitVec.getLsbD_and, BitVec.getLsbD_and, BitVec.getLsbD_not,
    getLsbD_fieldMask bit len k hk, getLsbD_shl8 _ _ k hk]
  unfold alignment
  by_cases h : 7 - bit.toNat ≤ k ∧ k < 7 - bit.toNat + fieldLen len
  · simp [h]
  · rw [if_neg h, decide_eq_false h]
    simp [hk]

/-- R126, R127: what the ALU and its flag give. -/
theorem aluGives (op : DataOp) (v a : Byte) (old : Bool) :
    AluGives op v a old (aluResult op v a) (aluFlag op v a old) := by
  cases op <;> simp [AluGives, aluResult, aluFlag, carryOut, BitVec.toNat_add]

/-- R25, R26: register octal 10 reads as the flag in the place of weight 1. -/
theorem ovfByte_toNat (o : Bool) : (ovfByte o).toNat = o.toNat := by cases o <;> rfl

/-- R217: the immediate of XMIT.v is zero-extended. -/
theorem xmitByte_toNat (imm : BitVec 5) : (xmitByte imm).toNat = imm.toNat := by
  unfold xmitByte
  rw [BitVec.toNat_append]
  simp

/-- R225. -/
theorem jmpTarget_toNat (a : BitVec 13) : (jmpTarget a).toNat = a.toNat := by
  unfold jmpTarget
  rw [BitVec.toNat_append]
  simp

/-- R202. -/
theorem callTarget_toNat (p : Byte) (imm : BitVec 8) :
    (callTarget p imm).toNat = p.toNat * 256 + imm.toNat := by
  unfold callTarget
  rw [BitVec.toNat_append, ← Nat.shiftLeft_add_eq_or_of_lt imm.isLt, Nat.shiftLeft_eq]

/-- R190, R200: the 256-word page is kept. -/
theorem replaceLow8_toNat (a : Addr) (low : BitVec 8) :
    (replaceLow8 a low).toNat = a.toNat / 256 * 256 + low.toNat := by
  unfold replaceLow8
  rw [BitVec.toNat_append, ← Nat.shiftLeft_add_eq_or_of_lt low.isLt, Nat.shiftLeft_eq,
    BitVec.extractLsb'_toNat, Nat.shiftRight_eq_div_pow]
  omega

/-- R191, R201: the 32-word block is kept. -/
theorem replaceLow5_toNat (a : Addr) (low : BitVec 5) :
    (replaceLow5 a low).toNat = a.toNat / 32 * 32 + low.toNat := by
  unfold replaceLow5
  rw [BitVec.toNat_append, ← Nat.shiftLeft_add_eq_or_of_lt low.isLt, Nat.shiftLeft_eq,
    BitVec.extractLsb'_toNat, Nat.shiftRight_eq_div_pow]
  omega

/-- R191: the sum wraps inside the block. -/
theorem sum5_toNat (field : Byte) (imm : BitVec 5) :
    (sum5 field imm).toNat = (field.toNat + imm.toNat) % 32 := by
  unfold sum5
  rw [BitVec.toNat_add, BitVec.extractLsb'_toNat]
  simp

end Sys2Proof.Machine
end

