-- ==== Sys2Proof/Laws/State.lean ====
section
/-! SUPPORT. For each update of the state, what each field is after it. -/

namespace Sys2Proof.Machine

section
variable (s : State) (r : GReg) (v : Byte)

@[simp] theorem State.setReg_regs : (s.setReg r v).regs = s.regs.set r v := rfl
@[simp] theorem State.setReg_ovf : (s.setReg r v).ovf = s.ovf := rfl
@[simp] theorem State.setReg_iva : (s.setReg r v).iva = s.iva := rfl
@[simp] theorem State.setReg_ivl : (s.setReg r v).ivl = s.ivl := rfl
@[simp] theorem State.setReg_pc : (s.setReg r v).pc = s.pc := rfl
@[simp] theorem State.setReg_ar : (s.setReg r v).ar = s.ar := rfl
@[simp] theorem State.setReg_stk : (s.setReg r v).stk = s.stk := rfl
@[simp] theorem State.setReg_prog : (s.setReg r v).prog = s.prog := rfl
@[simp] theorem State.setReg_ioIn : (s.setReg r v).ioIn = s.ioIn := rfl
@[simp] theorem State.setReg_trace : (s.setReg r v).trace = s.trace := rfl
@[simp] theorem State.setReg_miss : (s.setReg r v).miss = s.miss := rfl

end

section
variable (s : State) (v : Bool)

@[simp] theorem State.setOvf_regs : (s.setOvf v).regs = s.regs := rfl
@[simp] theorem State.setOvf_ovf : (s.setOvf v).ovf = v := rfl
@[simp] theorem State.setOvf_iva : (s.setOvf v).iva = s.iva := rfl
@[simp] theorem State.setOvf_ivl : (s.setOvf v).ivl = s.ivl := rfl
@[simp] theorem State.setOvf_pc : (s.setOvf v).pc = s.pc := rfl
@[simp] theorem State.setOvf_ar : (s.setOvf v).ar = s.ar := rfl
@[simp] theorem State.setOvf_stk : (s.setOvf v).stk = s.stk := rfl
@[simp] theorem State.setOvf_prog : (s.setOvf v).prog = s.prog := rfl
@[simp] theorem State.setOvf_ioIn : (s.setOvf v).ioIn = s.ioIn := rfl
@[simp] theorem State.setOvf_trace : (s.setOvf v).trace = s.trace := rfl
@[simp] theorem State.setOvf_miss : (s.setOvf v).miss = s.miss := rfl

end

section
variable (s : State) (b : Bank) (v : Byte)

@[simp] theorem State.setIva_regs : (s.setIva b v).regs = s.regs := rfl
@[simp] theorem State.setIva_ovf : (s.setIva b v).ovf = s.ovf := rfl
@[simp] theorem State.setIva_iva : (s.setIva b v).iva = s.iva.set b v := rfl
@[simp] theorem State.setIva_ivl : (s.setIva b v).ivl = s.ivl := rfl
@[simp] theorem State.setIva_pc : (s.setIva b v).pc = s.pc := rfl
@[simp] theorem State.setIva_ar : (s.setIva b v).ar = s.ar := rfl
@[simp] theorem State.setIva_stk : (s.setIva b v).stk = s.stk := rfl
@[simp] theorem State.setIva_prog : (s.setIva b v).prog = s.prog := rfl
@[simp] theorem State.setIva_ioIn : (s.setIva b v).ioIn = s.ioIn := rfl
@[simp] theorem State.setIva_trace : (s.setIva b v).trace = s.trace := rfl
@[simp] theorem State.setIva_miss : (s.setIva b v).miss = s.miss := rfl

end

section
variable (s : State) (b : Bank)

@[simp] theorem State.afterRead_regs : (s.afterRead b).regs = s.regs := rfl
@[simp] theorem State.afterRead_ovf : (s.afterRead b).ovf = s.ovf := rfl
@[simp] theorem State.afterRead_iva : (s.afterRead b).iva = s.iva := rfl
@[simp] theorem State.afterRead_ivl : (s.afterRead b).ivl = s.ivl := rfl
@[simp] theorem State.afterRead_pc : (s.afterRead b).pc = s.pc := rfl
@[simp] theorem State.afterRead_ar : (s.afterRead b).ar = s.ar := rfl
@[simp] theorem State.afterRead_stk : (s.afterRead b).stk = s.stk := rfl
@[simp] theorem State.afterRead_prog : (s.afterRead b).prog = s.prog := rfl
@[simp] theorem State.afterRead_ioIn : (s.afterRead b).ioIn = s.ioIn.tail := rfl
@[simp] theorem State.afterRead_trace :
    (s.afterRead b).trace = s.trace ++ [.read b (s.iva.get b) (s.ioAnswer b)] := rfl
@[simp] theorem State.afterRead_miss : (s.afterRead b).miss = s.miss := rfl

end

section
variable (s : State) (b : Bank) (v : Byte)

@[simp] theorem State.ioWrite_regs : (s.ioWrite b v).regs = s.regs := rfl
@[simp] theorem State.ioWrite_ovf : (s.ioWrite b v).ovf = s.ovf := rfl
@[simp] theorem State.ioWrite_iva : (s.ioWrite b v).iva = s.iva := rfl
@[simp] theorem State.ioWrite_ivl : (s.ioWrite b v).ivl = s.ivl.set b v := rfl
@[simp] theorem State.ioWrite_pc : (s.ioWrite b v).pc = s.pc := rfl
@[simp] theorem State.ioWrite_ar : (s.ioWrite b v).ar = s.ar := rfl
@[simp] theorem State.ioWrite_stk : (s.ioWrite b v).stk = s.stk := rfl
@[simp] theorem State.ioWrite_prog : (s.ioWrite b v).prog = s.prog := rfl
@[simp] theorem State.ioWrite_ioIn : (s.ioWrite b v).ioIn = s.ioIn := rfl
@[simp] theorem State.ioWrite_trace :
    (s.ioWrite b v).trace = s.trace ++ [.write b (s.iva.get b) v] := rfl
@[simp] theorem State.ioWrite_miss : (s.ioWrite b v).miss = s.miss := rfl

end

section
variable (s : State) (f : IvSel) (l : BitVec 3) (v : Byte)

@[simp] theorem State.writeField_regs : (s.writeField f l v).regs = s.regs := rfl
@[simp] theorem State.writeField_ovf : (s.writeField f l v).ovf = s.ovf := rfl
@[simp] theorem State.writeField_iva : (s.writeField f l v).iva = s.iva := rfl
@[simp] theorem State.writeField_ivl :
    (s.writeField f l v).ivl = s.ivl.set f.bank (mergeField (s.ivl.get f.bank) v f.bit l) := rfl
@[simp] theorem State.writeField_pc : (s.writeField f l v).pc = s.pc := rfl
@[simp] theorem State.writeField_ar : (s.writeField f l v).ar = s.ar := rfl
@[simp] theorem State.writeField_stk : (s.writeField f l v).stk = s.stk := rfl
@[simp] theorem State.writeField_prog : (s.writeField f l v).prog = s.prog := rfl
@[simp] theorem State.writeField_ioIn : (s.writeField f l v).ioIn = s.ioIn := rfl
@[simp] theorem State.writeField_trace :
    (s.writeField f l v).trace = s.trace ++ [.write f.bank (s.iva.get f.bank) (mergeField (s.ivl.get f.bank) v f.bit l)] := rfl
@[simp] theorem State.writeField_miss : (s.writeField f l v).miss = s.miss := rfl

end

section
variable (s : State) (op : DataOp) (v : Byte)

@[simp] theorem State.flagged_regs : (s.flagged op v).regs = s.regs := rfl
@[simp] theorem State.flagged_ovf : (s.flagged op v).ovf = aluFlag op v s.regs.aux s.ovf := rfl
@[simp] theorem State.flagged_iva : (s.flagged op v).iva = s.iva := rfl
@[simp] theorem State.flagged_ivl : (s.flagged op v).ivl = s.ivl := rfl
@[simp] theorem State.flagged_pc : (s.flagged op v).pc = s.pc := rfl
@[simp] theorem State.flagged_ar : (s.flagged op v).ar = s.ar := rfl
@[simp] theorem State.flagged_stk : (s.flagged op v).stk = s.stk := rfl
@[simp] theorem State.flagged_prog : (s.flagged op v).prog = s.prog := rfl
@[simp] theorem State.flagged_ioIn : (s.flagged op v).ioIn = s.ioIn := rfl
@[simp] theorem State.flagged_trace : (s.flagged op v).trace = s.trace := rfl
@[simp] theorem State.flagged_miss : (s.flagged op v).miss = s.miss := rfl

end

section
variable (s : State)

@[simp] theorem State.advance_regs : (s.advance).regs = s.regs := rfl
@[simp] theorem State.advance_ovf : (s.advance).ovf = s.ovf := rfl
@[simp] theorem State.advance_iva : (s.advance).iva = s.iva := rfl
@[simp] theorem State.advance_ivl : (s.advance).ivl = s.ivl := rfl
@[simp] theorem State.advance_pc : (s.advance).pc = s.pc + 1#16 := rfl
@[simp] theorem State.advance_ar : (s.advance).ar = s.pc + 1#16 := rfl
@[simp] theorem State.advance_stk : (s.advance).stk = s.stk := rfl
@[simp] theorem State.advance_prog : (s.advance).prog = s.prog := rfl
@[simp] theorem State.advance_ioIn : (s.advance).ioIn = s.ioIn := rfl
@[simp] theorem State.advance_trace : (s.advance).trace = s.trace := rfl
@[simp] theorem State.advance_miss : (s.advance).miss = s.miss := rfl

end

section
variable (s : State) (a : Addr)

@[simp] theorem State.jumpTo_regs : (s.jumpTo a).regs = s.regs := rfl
@[simp] theorem State.jumpTo_ovf : (s.jumpTo a).ovf = s.ovf := rfl
@[simp] theorem State.jumpTo_iva : (s.jumpTo a).iva = s.iva := rfl
@[simp] theorem State.jumpTo_ivl : (s.jumpTo a).ivl = s.ivl := rfl
@[simp] theorem State.jumpTo_pc : (s.jumpTo a).pc = a := rfl
@[simp] theorem State.jumpTo_ar : (s.jumpTo a).ar = a := rfl
@[simp] theorem State.jumpTo_stk : (s.jumpTo a).stk = s.stk := rfl
@[simp] theorem State.jumpTo_prog : (s.jumpTo a).prog = s.prog := rfl
@[simp] theorem State.jumpTo_ioIn : (s.jumpTo a).ioIn = s.ioIn := rfl
@[simp] theorem State.jumpTo_trace : (s.jumpTo a).trace = s.trace := rfl
@[simp] theorem State.jumpTo_miss : (s.jumpTo a).miss = s.miss := rfl

end

section
variable (s : State) (a : Addr)

@[simp] theorem State.setAr_regs : (s.setAr a).regs = s.regs := rfl
@[simp] theorem State.setAr_ovf : (s.setAr a).ovf = s.ovf := rfl
@[simp] theorem State.setAr_iva : (s.setAr a).iva = s.iva := rfl
@[simp] theorem State.setAr_ivl : (s.setAr a).ivl = s.ivl := rfl
@[simp] theorem State.setAr_pc : (s.setAr a).pc = s.pc := rfl
@[simp] theorem State.setAr_ar : (s.setAr a).ar = a := rfl
@[simp] theorem State.setAr_stk : (s.setAr a).stk = s.stk := rfl
@[simp] theorem State.setAr_prog : (s.setAr a).prog = s.prog := rfl
@[simp] theorem State.setAr_ioIn : (s.setAr a).ioIn = s.ioIn := rfl
@[simp] theorem State.setAr_trace : (s.setAr a).trace = s.trace := rfl
@[simp] theorem State.setAr_miss : (s.setAr a).miss = s.miss := rfl

end

section
variable (s : State) (v : Byte) (a : Addr)

@[simp] theorem State.jumpIfNonzero_regs : (s.jumpIfNonzero v a).regs = s.regs := rfl
@[simp] theorem State.jumpIfNonzero_ovf : (s.jumpIfNonzero v a).ovf = s.ovf := rfl
@[simp] theorem State.jumpIfNonzero_iva : (s.jumpIfNonzero v a).iva = s.iva := rfl
@[simp] theorem State.jumpIfNonzero_ivl : (s.jumpIfNonzero v a).ivl = s.ivl := rfl
@[simp] theorem State.jumpIfNonzero_pc :
    (s.jumpIfNonzero v a).pc = if v = 0#8 then s.pc + 1#16 else a := rfl
@[simp] theorem State.jumpIfNonzero_ar :
    (s.jumpIfNonzero v a).ar = if v = 0#8 then s.pc + 1#16 else a := rfl
@[simp] theorem State.jumpIfNonzero_stk : (s.jumpIfNonzero v a).stk = s.stk := rfl
@[simp] theorem State.jumpIfNonzero_prog : (s.jumpIfNonzero v a).prog = s.prog := rfl
@[simp] theorem State.jumpIfNonzero_ioIn : (s.jumpIfNonzero v a).ioIn = s.ioIn := rfl
@[simp] theorem State.jumpIfNonzero_trace : (s.jumpIfNonzero v a).trace = s.trace := rfl
@[simp] theorem State.jumpIfNonzero_miss : (s.jumpIfNonzero v a).miss = s.miss := rfl

end

section
variable (s : State) (a : Addr)

@[simp] theorem State.pushStk_regs : (s.pushStk a).regs = s.regs := rfl
@[simp] theorem State.pushStk_ovf : (s.pushStk a).ovf = s.ovf := rfl
@[simp] theorem State.pushStk_iva : (s.pushStk a).iva = s.iva := rfl
@[simp] theorem State.pushStk_ivl : (s.pushStk a).ivl = s.ivl := rfl
@[simp] theorem State.pushStk_pc : (s.pushStk a).pc = s.pc := rfl
@[simp] theorem State.pushStk_ar : (s.pushStk a).ar = s.ar := rfl
@[simp] theorem State.pushStk_stk : (s.pushStk a).stk = s.stk ++ [a] := rfl
@[simp] theorem State.pushStk_prog : (s.pushStk a).prog = s.prog := rfl
@[simp] theorem State.pushStk_ioIn : (s.pushStk a).ioIn = s.ioIn := rfl
@[simp] theorem State.pushStk_trace : (s.pushStk a).trace = s.trace := rfl
@[simp] theorem State.pushStk_miss : (s.pushStk a).miss = s.miss := rfl

end

section
variable (s : State)

@[simp] theorem State.popStk_regs : (s.popStk).regs = s.regs := rfl
@[simp] theorem State.popStk_ovf : (s.popStk).ovf = s.ovf := rfl
@[simp] theorem State.popStk_iva : (s.popStk).iva = s.iva := rfl
@[simp] theorem State.popStk_ivl : (s.popStk).ivl = s.ivl := rfl
@[simp] theorem State.popStk_pc : (s.popStk).pc = s.pc := rfl
@[simp] theorem State.popStk_ar : (s.popStk).ar = s.ar := rfl
@[simp] theorem State.popStk_stk : (s.popStk).stk = s.stk.dropLast := rfl
@[simp] theorem State.popStk_prog : (s.popStk).prog = s.prog := rfl
@[simp] theorem State.popStk_ioIn : (s.popStk).ioIn = s.ioIn := rfl
@[simp] theorem State.popStk_trace : (s.popStk).trace = s.trace := rfl
@[simp] theorem State.popStk_miss : (s.popStk).miss = s.miss := rfl

end

section
variable (s : State)

@[simp] theorem State.passMiss_regs : (s.passMiss).regs = s.regs := rfl
@[simp] theorem State.passMiss_ovf : (s.passMiss).ovf = s.ovf := rfl
@[simp] theorem State.passMiss_iva : (s.passMiss).iva = s.iva := rfl
@[simp] theorem State.passMiss_ivl : (s.passMiss).ivl = s.ivl := rfl
@[simp] theorem State.passMiss_pc : (s.passMiss).pc = s.pc := rfl
@[simp] theorem State.passMiss_ar : (s.passMiss).ar = s.ar := rfl
@[simp] theorem State.passMiss_stk : (s.passMiss).stk = s.stk := rfl
@[simp] theorem State.passMiss_prog : (s.passMiss).prog = s.prog := rfl
@[simp] theorem State.passMiss_ioIn : (s.passMiss).ioIn = s.ioIn := rfl
@[simp] theorem State.passMiss_trace : (s.passMiss).trace = s.trace := rfl
@[simp] theorem State.passMiss_miss : (s.passMiss).miss = s.miss.tail := rfl

end

section
variable (s : State) (w : IWord)

@[simp] theorem State.placeWord_regs : (s.placeWord w).regs = s.regs := rfl
@[simp] theorem State.placeWord_ovf : (s.placeWord w).ovf = s.ovf := rfl
@[simp] theorem State.placeWord_iva : (s.placeWord w).iva = s.iva := rfl
@[simp] theorem State.placeWord_ivl : (s.placeWord w).ivl = s.ivl := rfl
@[simp] theorem State.placeWord_pc : (s.placeWord w).pc = s.pc := rfl
@[simp] theorem State.placeWord_ar : (s.placeWord w).ar = s.ar := rfl
@[simp] theorem State.placeWord_stk : (s.placeWord w).stk = s.stk := rfl
@[simp] theorem State.placeWord_prog : (s.placeWord w).prog = s.prog.write s.ar.toNat w := rfl
@[simp] theorem State.placeWord_ioIn : (s.placeWord w).ioIn = s.ioIn := rfl
@[simp] theorem State.placeWord_trace : (s.placeWord w).trace = s.trace := rfl
@[simp] theorem State.placeWord_miss : (s.placeWord w).miss = [] := rfl

end

/-- With no level of the Miss inputs listed, passing to the next step changes nothing. -/
theorem State.passMiss_of_nil (s : State) (h : s.miss = []) : s.passMiss = s := by
  cases s; subst h; rfl

end Sys2Proof.Machine
end

