-- ==== Sys2Proof/Laws/Ops.lean ====
section
/-! SUPPORT. One lemma for each shared operation that says all it can do. -/

namespace Sys2Proof.Machine

/-! ## Registers -/

@[simp] theorem Regs.get_set_same (x : Regs) (r : GReg) (v : Byte) : (x.set r v).get r = v := by
  cases r <;> rfl

theorem Regs.get_set_other (x : Regs) {r q : GReg} (v : Byte) (h : q ≠ r) :
    (x.set r v).get q = x.get q := by
  cases r <;> cases q <;> first | rfl | exact absurd rfl h

@[simp] theorem PerBank.get_set_same (p : PerBank) (b : Bank) (v : Byte) :
    (p.set b v).get b = v := by
  cases b <;> rfl

theorem PerBank.get_set_other (p : PerBank) {b c : Bank} (v : Byte) (h : c ≠ b) :
    (p.set b v).get c = p.get c := by
  cases b <;> cases c <;> first | rfl | exact absurd rfl h

/-! ## The shared meanings, inverted: if one answers `next t`, `t` is this -/

section
variable {op : DataOp} {src : SReg} {fld : IvSel} {rl : BitVec 3} {d : GReg} {b : Bank}
  {f : IvSel} {s t : State}

theorem dataRr_next (h : dataRr op src rl d s = .next t) :
    t = { s with regs := s.regs.set d (s.aluRes op (s.rotatedSrc src rl))
                 ovf := aluFlag op (s.rotatedSrc src rl) s.regs.aux s.ovf
                 pc := s.pc + 1#16, ar := s.pc + 1#16 } := by
  cases h; rfl

theorem dataRa_next (h : dataRa op src rl b s = .next t) :
    t = { s with iva := s.iva.set b (s.aluRes op (s.rotatedSrc src rl))
                 ovf := aluFlag op (s.rotatedSrc src rl) s.regs.aux s.ovf
                 pc := s.pc + 1#16, ar := s.pc + 1#16 } := by
  cases h; rfl

theorem dataRv_next (h : dataRv op src rl f s = .next t) :
    t = ({ s with ovf := aluFlag op (s.readSrc src) s.regs.aux s.ovf
                  pc := s.pc + 1#16, ar := s.pc + 1#16 }).writeField f rl
          (s.aluRes op (s.readSrc src)) := by
  cases h; rfl

theorem dataVr_next (h : dataVr op fld rl d s = .next t) :
    t = { s.afterRead fld.bank with
            regs := s.regs.set d (s.aluRes op (s.fieldSrc fld rl))
            ovf := aluFlag op (s.fieldSrc fld rl) s.regs.aux s.ovf
            pc := s.pc + 1#16, ar := s.pc + 1#16 } := by
  cases h; rfl

theorem dataVv_next (h : dataVv op fld rl f s = .next t) :
    t = ({ s.afterRead fld.bank with
             ovf := aluFlag op (s.fieldSrc fld rl) s.regs.aux s.ovf
             pc := s.pc + 1#16, ar := s.pc + 1#16 }).writeField f rl
          (s.aluRes op (s.fieldSrc fld rl)) := by
  cases h; rfl

theorem dataVa_next (h : dataVa op fld rl b s = .next t) :
    t = { s.afterRead fld.bank with
            iva := s.iva.set b (s.aluRes op (s.fieldSrc fld rl))
            ovf := aluFlag op (s.fieldSrc fld rl) s.regs.aux s.ovf
            pc := s.pc + 1#16, ar := s.pc + 1#16 } := by
  cases h; rfl

/-- CALL answers `next t` below the eighth level only. -/
theorem execCall_next {imm : BitVec 8} (h : execCall imm s = .next t) :
    s.stk.length < Config.stackDepth ∧
      t = (s.pushStk (s.pc + 1#16)).jumpTo (callTarget s.regs.aux imm) := by
  unfold execCall at h
  split at h
  · rename_i hd
    cases h
    exact ⟨hd, rfl⟩
  · cases h

/-- RET answers `next t` on a stack with an entry only. -/
theorem execRet_next (h : execRet s = .next t) :
    ∃ a, s.stk.getLast? = some a ∧ t = s.popStk.jumpTo a := by
  unfold execRet at h
  split at h
  · rename_i a ha
    cases h
    exact ⟨a, ha, rfl⟩
  · cases h

end

/-! ## One step -/

/-- What a step can do: wait for a Miss input, or run the fetched instruction (R62, R133). -/
theorem step_next {s t : State} (h : step s = .next t) :
    t = s.passMiss ∨ ∃ i, s.fetchInstr = .ok i ∧ exec i s.passMiss = .next t := by
  unfold step stepWith at h
  split at h
  · cases h; exact .inl rfl
  · split at h
    · cases h
    · rename_i i hi
      split at h
      · cases h; exact .inl rfl
      · exact .inr ⟨i, hi, h⟩

/-- When no Miss input holds it back, a step is the meaning of the fetched instruction. -/
theorem step_of_fetch {s : State} {i : Instr} (hp : s.pMissNow = false)
    (hi : s.fetchInstr = .ok i) (hd : (s.dMissNow && usesIoBus i) = false) :
    step s = exec i s.passMiss := by
  simp [step, stepWith, hp, hi, hd]

/-- The fetch finds an instruction exactly when `PROG` has a word at `ar` that decodes (R133). -/
theorem State.fetchInstr_ok {s : State} {i : Instr} :
    s.fetchInstr = .ok i ↔ ∃ w, s.progRead s.ar = some w ∧ decode w = .ok i := by
  unfold State.fetchInstr
  split
  · simp_all
  · rename_i w hw
    split
    · rename_i j hj
      simp [hw, hj]
    · rename_i e he
      simp [hw, he]

end Sys2Proof.Machine
end

