-- ==== Sys2Proof/Laws/PerInstr.lean ====
section
/-! SUPPORT. Families of statements made instruction by instruction. -/

namespace Sys2Proof.Laws

open Sys2Proof.Machine

/-- The three most significant bits of an instruction's word are its operation code (R81, R86). -/
def OpCodeBits.Statement (i : Instr) : Prop := (fieldOp (encode i)).toNat = opCode i

theorem OpCodeBits.moveRr (src : SReg) (rot : BitVec 3) (dst : GReg) :
    OpCodeBits.Statement (.moveRr src rot dst) :=
  congrArg BitVec.toNat (fieldOp_wordRd _ _ _ _)

theorem OpCodeBits.moveRa (src : SReg) (rot : BitVec 3) (dst : Bank) :
    OpCodeBits.Statement (.moveRa src rot dst) :=
  congrArg BitVec.toNat (fieldOp_wordRd _ _ _ _)

theorem OpCodeBits.moveRv (src : SReg) (len : BitVec 3) (dst : IvSel) :
    OpCodeBits.Statement (.moveRv src len dst) :=
  congrArg BitVec.toNat (fieldOp_wordRd _ _ _ _)

theorem OpCodeBits.moveVr (src : IvSel) (len : BitVec 3) (dst : GReg) :
    OpCodeBits.Statement (.moveVr src len dst) :=
  congrArg BitVec.toNat (fieldOp_wordRd _ _ _ _)

theorem OpCodeBits.moveVv (src : IvSel) (len : BitVec 3) (dst : IvSel) :
    OpCodeBits.Statement (.moveVv src len dst) :=
  congrArg BitVec.toNat (fieldOp_wordRd _ _ _ _)

theorem OpCodeBits.moveVa (src : IvSel) (len : BitVec 3) (dst : Bank) :
    OpCodeBits.Statement (.moveVa src len dst) :=
  congrArg BitVec.toNat (fieldOp_wordRd _ _ _ _)

theorem OpCodeBits.nop :
    OpCodeBits.Statement .nop :=
  rfl

theorem OpCodeBits.addRr (src : SReg) (rot : BitVec 3) (dst : GReg) :
    OpCodeBits.Statement (.addRr src rot dst) :=
  congrArg BitVec.toNat (fieldOp_wordRd _ _ _ _)

theorem OpCodeBits.addRa (src : SReg) (rot : BitVec 3) (dst : Bank) :
    OpCodeBits.Statement (.addRa src rot dst) :=
  congrArg BitVec.toNat (fieldOp_wordRd _ _ _ _)

theorem OpCodeBits.addRv (src : SReg) (len : BitVec 3) (dst : IvSel) :
    OpCodeBits.Statement (.addRv src len dst) :=
  congrArg BitVec.toNat (fieldOp_wordRd _ _ _ _)

theorem OpCodeBits.addVv (src : IvSel) (len : BitVec 3) (dst : IvSel) :
    OpCodeBits.Statement (.addVv src len dst) :=
  congrArg BitVec.toNat (fieldOp_wordRd _ _ _ _)

theorem OpCodeBits.addVr (src : IvSel) (len : BitVec 3) (dst : GReg) :
    OpCodeBits.Statement (.addVr src len dst) :=
  congrArg BitVec.toNat (fieldOp_wordRd _ _ _ _)

theorem OpCodeBits.addVa (src : IvSel) (len : BitVec 3) (dst : Bank) :
    OpCodeBits.Statement (.addVa src len dst) :=
  congrArg BitVec.toNat (fieldOp_wordRd _ _ _ _)

theorem OpCodeBits.andRr (src : SReg) (rot : BitVec 3) (dst : GReg) :
    OpCodeBits.Statement (.andRr src rot dst) :=
  congrArg BitVec.toNat (fieldOp_wordRd _ _ _ _)

theorem OpCodeBits.andRa (src : SReg) (rot : BitVec 3) (dst : Bank) :
    OpCodeBits.Statement (.andRa src rot dst) :=
  congrArg BitVec.toNat (fieldOp_wordRd _ _ _ _)

theorem OpCodeBits.andRv (src : SReg) (len : BitVec 3) (dst : IvSel) :
    OpCodeBits.Statement (.andRv src len dst) :=
  congrArg BitVec.toNat (fieldOp_wordRd _ _ _ _)

theorem OpCodeBits.andVr (src : IvSel) (len : BitVec 3) (dst : GReg) :
    OpCodeBits.Statement (.andVr src len dst) :=
  congrArg BitVec.toNat (fieldOp_wordRd _ _ _ _)

theorem OpCodeBits.andVv (src : IvSel) (len : BitVec 3) (dst : IvSel) :
    OpCodeBits.Statement (.andVv src len dst) :=
  congrArg BitVec.toNat (fieldOp_wordRd _ _ _ _)

theorem OpCodeBits.andVa (src : IvSel) (len : BitVec 3) (dst : Bank) :
    OpCodeBits.Statement (.andVa src len dst) :=
  congrArg BitVec.toNat (fieldOp_wordRd _ _ _ _)

theorem OpCodeBits.xorRr (src : SReg) (rot : BitVec 3) (dst : GReg) :
    OpCodeBits.Statement (.xorRr src rot dst) :=
  congrArg BitVec.toNat (fieldOp_wordRd _ _ _ _)

theorem OpCodeBits.xorRa (src : SReg) (rot : BitVec 3) (dst : Bank) :
    OpCodeBits.Statement (.xorRa src rot dst) :=
  congrArg BitVec.toNat (fieldOp_wordRd _ _ _ _)

theorem OpCodeBits.xorRv (src : SReg) (len : BitVec 3) (dst : IvSel) :
    OpCodeBits.Statement (.xorRv src len dst) :=
  congrArg BitVec.toNat (fieldOp_wordRd _ _ _ _)

theorem OpCodeBits.xorVr (src : IvSel) (len : BitVec 3) (dst : GReg) :
    OpCodeBits.Statement (.xorVr src len dst) :=
  congrArg BitVec.toNat (fieldOp_wordRd _ _ _ _)

theorem OpCodeBits.xorVv (src : IvSel) (len : BitVec 3) (dst : IvSel) :
    OpCodeBits.Statement (.xorVv src len dst) :=
  congrArg BitVec.toNat (fieldOp_wordRd _ _ _ _)

theorem OpCodeBits.xorVa (src : IvSel) (len : BitVec 3) (dst : Bank) :
    OpCodeBits.Statement (.xorVa src len dst) :=
  congrArg BitVec.toNat (fieldOp_wordRd _ _ _ _)

theorem OpCodeBits.xecR (src : SReg) (imm : BitVec 8) :
    OpCodeBits.Statement (.xecR src imm) :=
  congrArg BitVec.toNat (fieldOp_wordI8 _ _ _)

theorem OpCodeBits.xecV (src : IvSel) (len : BitVec 3) (imm : BitVec 5) :
    OpCodeBits.Statement (.xecV src len imm) :=
  congrArg BitVec.toNat (fieldOp_wordRd _ _ _ _)

theorem OpCodeBits.nztR (src : SReg) (imm : BitVec 8) :
    OpCodeBits.Statement (.nztR src imm) :=
  congrArg BitVec.toNat (fieldOp_wordI8 _ _ _)

theorem OpCodeBits.nztV (src : IvSel) (len : BitVec 3) (imm : BitVec 5) :
    OpCodeBits.Statement (.nztV src len imm) :=
  congrArg BitVec.toNat (fieldOp_wordRd _ _ _ _)

theorem OpCodeBits.call (imm : BitVec 8) :
    OpCodeBits.Statement (.call imm) :=
  congrArg BitVec.toNat (fieldOp_wordI8 _ _ _)

theorem OpCodeBits.ret :
    OpCodeBits.Statement .ret :=
  rfl

theorem OpCodeBits.xmitR (dst : GReg) (imm : BitVec 8) :
    OpCodeBits.Statement (.xmitR dst imm) :=
  congrArg BitVec.toNat (fieldOp_wordI8 _ _ _)

theorem OpCodeBits.xmitA (dst : Bank) (imm : BitVec 8) :
    OpCodeBits.Statement (.xmitA dst imm) :=
  congrArg BitVec.toNat (fieldOp_wordI8 _ _ _)

theorem OpCodeBits.xmitV (dst : IvSel) (len : BitVec 3) (imm : BitVec 5) :
    OpCodeBits.Statement (.xmitV dst len imm) :=
  congrArg BitVec.toNat (fieldOp_wordRd _ _ _ _)

theorem OpCodeBits.jmp (target : BitVec 13) :
    OpCodeBits.Statement (.jmp target) :=
  congrArg BitVec.toNat (fieldOp_wordA _ _)

end Sys2Proof.Laws
end

