-- ==== Sys2Proof/Laws/Runs.lean ====
section
/-! SUPPORT. Runs of the machine: one step at a time, and the induction over them. -/

namespace Sys2Proof.Machine

/-- For any machine, a run of `n + 1` steps that ends in a state is a step and a run of `n`. -/
theorem coreRun_succ (M : Host.Core) (n : Nat) (s t : M.State) :
    M.run (n + 1) s = .next t ↔ ∃ u, M.step s = .next u ∧ M.run n u = .next t := by
  simp only [Host.Core.run]
  cases M.step s with
  | next u => exact ⟨fun h => ⟨u, rfl, h⟩, fun ⟨u', hu, h⟩ => by cases hu; exact h⟩
  | fault r => exact ⟨fun h => (nomatch h), fun ⟨_, hu, _⟩ => (nomatch hu)⟩
  | refused r => exact ⟨fun h => (nomatch h), fun ⟨_, hu, _⟩ => (nomatch hu)⟩

theorem runsTo_zero {s t : State} : RunsTo 0 s t ↔ s = t :=
  ⟨fun h => Host.Outcome.next.inj h, fun h => congrArg Host.Outcome.next h⟩

theorem runsTo_succ {n : Nat} {s t : State} :
    RunsTo (n + 1) s t ↔ ∃ u, step s = .next u ∧ RunsTo n u t :=
  coreRun_succ Sys2Proof.core n s t

/-- A relation that holds of a state and itself and goes back over one step holds of the two ends
of every run. -/
theorem RunsTo.induction {P : State → State → Prop} (refl : ∀ s, P s s)
    (head : ∀ {s t u}, step s = .next t → P t u → P s u) {n : Nat} {s t : State}
    (h : RunsTo n s t) : P s t := by
  induction n generalizing s with
  | zero => exact runsTo_zero.1 h ▸ refl s
  | succ n ih =>
    obtain ⟨u, hu, hr⟩ := runsTo_succ.1 h
    exact head hu (ih hr)

end Sys2Proof.Machine
end

