-- ==== Sys2Proof/Tests/Slice0.lean ====
section
/-! SUPPORT. Tests of one word or one step each, with expected results from 95_test_vectors.md (its
row ids are in the names), and for every statement with hypotheses a state that meets them. -/

namespace Sys2Proof.Tests

open Sys2Proof Sys2Proof.Machine

/-- A state to start tests from: `pc` = `ar` = 0x0100 as in 95_test_vectors.md, all else zero or
empty. It is not the reset state, whose registers are free values. -/
def z : State where
  regs := ⟨0#8, 0#8, 0#8, 0#8, 0#8, 0#8, 0#8, 0#8⟩
  ovf := false
  iva := ⟨0#8, 0#8⟩
  ivl := ⟨0#8, 0#8⟩
  pc := 0x0100#16
  ar := 0x0100#16
  stk := []
  prog := []
  ioIn := []
  trace := []
  miss := []

/-- The decoder reads `i` from `w`, and `i` encodes to `w`. -/
def reads (w : IWord) (i : Instr) : Bool :=
  match decode w with
  | .ok j => decide (j = i) && decide (encode i = w)
  | .error _ => false

/-- The decoder refuses `w` under class `r`. -/
def refuses (w : IWord) (r : Reserved) : Bool :=
  match decode w with
  | .ok _ => false
  | .error q => decide (q = r)

/-- With the word `w` placed at `ar` in `s`, a step ends in the state `f` makes of the start state,
and in no other. -/
def goes (w : Nat) (s : State) (f : State → State) : Bool :=
  match step (s.withFetchWord 16 w) with
  | .next t => decide (t = f (s.withFetchWord 16 w))
  | .fault _ => false
  | .refused _ => false

/-- With the word `w` placed at `ar` in `s`, a step ends in the fault `e`. -/
def stops (w : Nat) (s : State) (e : Fault) : Bool :=
  match step (s.withFetchWord 16 w) with
  | .next _ => false
  | .fault f => decide (f = e)
  | .refused _ => false

/-! ## WellFormed -/

/-- R191 and R92 V5: L = 0, 6 and 7 are no lengths of XEC.v, 1 and 5 are. -/
theorem test_wellFormed_refuses_xec_length :
    (Instr.xecV ⟨.left, 4#3⟩ 0#3 0#5).wellFormed = false ∧
    (Instr.xecV ⟨.left, 4#3⟩ 6#3 0#5).wellFormed = false ∧
    (Instr.xecV ⟨.left, 4#3⟩ 7#3 0#5).wellFormed = false ∧
    (Instr.xecV ⟨.left, 4#3⟩ 1#3 0#5).wellFormed = true ∧
    (Instr.xecV ⟨.left, 4#3⟩ 5#3 0#5).wellFormed = true := by
  decide

/-- R96: the all-zero word has the one term `nop`. -/
theorem test_wellFormed_refuses_second_nop :
    (Instr.moveRr (.gpr .aux) 0#3 .aux).wellFormed = false ∧
    (Instr.moveRr (.gpr .aux) 1#3 .aux).wellFormed = true ∧
    (Instr.moveRr (.gpr .r1) 0#3 .r1).wellFormed = true := by
  decide

/-! ## Decoding: the words the source prints, bit by bit -/

/-- 95_test_vectors.md S1 to S7. -/
theorem test_decode_move :
    reads 0b0000000101000000#16 (.moveRr (.gpr .r1) 2#3 .aux) = true ∧
    reads 0b0000001100001111#16 (.moveRa (.gpr .r3) 0#3 .right) = true ∧
    reads 0b0000100101110101#16 (.moveRv (.gpr .r11) 3#3 ⟨.left, 5#3⟩) = true ∧
    reads 0b0001101101100110#16 (.moveVr ⟨.right, 3#3⟩ 3#3 .r6) = true ∧
    reads 0b0001001001110101#16 (.moveVv ⟨.left, 2#3⟩ 3#3 ⟨.left, 5#3⟩) = true ∧
    reads 0b0001010001100111#16 (.moveVa ⟨.left, 4#3⟩ 3#3 .left) = true ∧
    reads 0b0000000000000000#16 (.nop) = true := by
  decide

/-- 95_test_vectors.md S8 to S13. -/
theorem test_decode_add :
    reads 0b0010000110000011#16 (.addRr (.gpr .r1) 4#3 .r3) = true ∧
    reads 0b0010001100001111#16 (.addRa (.gpr .r3) 0#3 .right) = true ∧
    reads 0b0010100110010011#16 (.addRv (.gpr .r11) 4#3 ⟨.left, 3#3⟩) = true ∧
    reads 0b0011011110010011#16 (.addVv ⟨.left, 7#3⟩ 4#3 ⟨.left, 3#3⟩) = true ∧
    reads 0b0011011110001001#16 (.addVr ⟨.left, 7#3⟩ 4#3 .r11) = true ∧
    reads 0b0011011110001111#16 (.addVa ⟨.left, 7#3⟩ 4#3 .right) = true := by
  decide

/-- 95_test_vectors.md S14 to S19. -/
theorem test_decode_and :
    reads 0b0100000110000011#16 (.andRr (.gpr .r1) 4#3 .r3) = true ∧
    reads 0b0100001100001111#16 (.andRa (.gpr .r3) 0#3 .right) = true ∧
    reads 0b0100100110010011#16 (.andRv (.gpr .r11) 4#3 ⟨.left, 3#3⟩) = true ∧
    reads 0b0101011110001001#16 (.andVr ⟨.left, 7#3⟩ 4#3 .r11) = true ∧
    reads 0b0101011110010011#16 (.andVv ⟨.left, 7#3⟩ 4#3 ⟨.left, 3#3⟩) = true ∧
    reads 0b0101011110001111#16 (.andVa ⟨.left, 7#3⟩ 4#3 .right) = true := by
  decide

/-- 95_test_vectors.md S20 to S25. -/
theorem test_decode_xor :
    reads 0b0110000110000011#16 (.xorRr (.gpr .r1) 4#3 .r3) = true ∧
    reads 0b0110001100001111#16 (.xorRa (.gpr .r3) 0#3 .right) = true ∧
    reads 0b0110100110010011#16 (.xorRv (.gpr .r11) 4#3 ⟨.left, 3#3⟩) = true ∧
    reads 0b0111011110001001#16 (.xorVr ⟨.left, 7#3⟩ 4#3 .r11) = true ∧
    reads 0b0111011110010011#16 (.xorVv ⟨.left, 7#3⟩ 4#3 ⟨.left, 3#3⟩) = true ∧
    reads 0b0111011110001111#16 (.xorVa ⟨.left, 7#3⟩ 4#3 .right) = true := by
  decide

/-- 95_test_vectors.md S26 to S27. -/
theorem test_decode_xec :
    reads 0b1000001111001101#16 (.xecR (.gpr .r3) 205#8) = true ∧
    reads 0b1001010001110110#16 (.xecV ⟨.left, 4#3⟩ 3#3 22#5) = true := by
  decide

/-- 95_test_vectors.md S28 to S31. -/
theorem test_decode_nzt :
    reads 0b1010011000110010#16 (.nztR (.gpr .r6) 50#8) = true ∧
    reads 0b1011010100101101#16 (.nztV ⟨.left, 5#3⟩ 1#3 13#5) = true ∧
    reads 0b1010011100110100#16 (.call 0x34#8) = true ∧
    reads 0b1010111100000000#16 (.ret) = true := by
  decide

/-- 95_test_vectors.md S32 to S34. -/
theorem test_decode_xmit :
    reads 0b1100000011111111#16 (.xmitR .aux 255#8) = true ∧
    reads 0b1100011100101011#16 (.xmitA .left 43#8) = true ∧
    reads 0b1101010110000110#16 (.xmitV ⟨.left, 5#3⟩ 4#3 6#5) = true := by
  decide

/-- 95_test_vectors.md S35. -/
theorem test_decode_jmp :
    reads 0b1110000101001010#16 (.jmp 330#13) = true := by
  decide

/-- R92: a word of each reserved class. -/
theorem test_decode_reserved :
    refuses 0b0000011100000000#16 .v1 = true ∧ refuses 0b0010101000000000#16 .v2 = true ∧
    refuses 0b0000000000001000#16 .v3 = true ∧ refuses 0b1000011100000000#16 .v4 = true ∧
    refuses 0b1001000011000000#16 .v5 = true ∧ refuses 0b1010111000000000#16 .v6 = true ∧
    refuses 0b1010111100000001#16 .v7 = true ∧ refuses 0b1100100000000000#16 .v8 = true := by
  decide

/-- Bits above `nbits` are not part of the word. -/
theorem test_decodeTableWord :
    decodeTableWord 16 0xE14A = some (.jmp 330#13) ∧
    decodeTableWord 16 0x1E14A = some (.jmp 330#13) ∧ decodeTableWord 16 0x0700 = none := by
  decide

/-! ## One step -/

/-- T1: `MOVE R1(2), AUX`. -/
theorem test_T1 : goes 0x0140 { z with
      regs := { z.regs with r1 := 0x96#8, aux := 0x00#8 } }
    (fun s => { s with
      regs := { s.regs with aux := 0xA5#8 }, pc := 0x0101#16, ar := 0x0101#16 }) = true := by
  decide

/-- T3: `MOVE R10(0), R1`. -/
theorem test_T3 : goes 0x0801 { z with
      regs := { z.regs with r1 := 0xEE#8 }, ovf := true }
    (fun s => { s with
      regs := { s.regs with r1 := 0x01#8 }, pc := 0x0101#16, ar := 0x0101#16 }) = true := by
  decide

/-- T5: `MOVE R3(0), R17`. -/
theorem test_T5 : goes 0x030F { z with
      regs := { z.regs with r3 := 0x5A#8 }, iva := ⟨0x11#8, 0x22#8⟩, ivl := ⟨0x33#8, 0x44#8⟩ }
    (fun s => { s with
      iva := { s.iva with right := 0x5A#8 }, pc := 0x0101#16, ar := 0x0101#16 }) = true := by
  decide

/-- T6: `MOVE R11, 3, LIV5`. -/
theorem test_T6 : goes 0x0975 { z with
      regs := { z.regs with r11 := 0xD8#8 }, iva := ⟨0x10#8, 0x00#8⟩, ivl := ⟨0xEF#8, 0x00#8⟩ }
    (fun s => { s with
      ivl := { s.ivl with left := 0xE3#8 }, pc := 0x0101#16, ar := 0x0101#16,
      trace := [.write .left 0x10#8 0xE3#8] }) = true := by
  decide

/-- T8: `MOVE R1, 4, LIV1`. -/
theorem test_T8 : goes 0x0191 { z with
      regs := { z.regs with r1 := 0x0F#8 }, iva := ⟨0x10#8, 0x00#8⟩, ivl := ⟨0x00#8, 0x00#8⟩ }
    (fun s => { s with
      ivl := { s.ivl with left := 0xC0#8 }, pc := 0x0101#16, ar := 0x0101#16,
      trace := [.write .left 0x10#8 0xC0#8] }) = true := by
  decide

/-- T10: `MOVE RIV3, 3, R6`. -/
theorem test_T10 : goes 0x1B66 { z with
      regs := { z.regs with r6 := 0xFF#8 }, iva := ⟨0x00#8, 0x20#8⟩, ioIn := [0x5A#8] }
    (fun s => { s with
      regs := { s.regs with r6 := 0x05#8 }, pc := 0x0101#16, ar := 0x0101#16,
      trace := [.read .right 0x20#8 0x5A#8], ioIn := [] }) = true := by
  decide

/-- T11: `MOVE LIV1, 4, R1`. -/
theorem test_T11 : goes 0x1181 { z with
      regs := { z.regs with r1 := 0x00#8 }, iva := ⟨0x10#8, 0x00#8⟩, ioIn := [0xB1#8] }
    (fun s => { s with
      regs := { s.regs with r1 := 0x06#8 }, pc := 0x0101#16, ar := 0x0101#16,
      trace := [.read .left 0x10#8 0xB1#8], ioIn := [] }) = true := by
  decide

/-- T15: `MOVE LIV2, 3, LIV5`. -/
theorem test_T15 : goes 0x1275 { z with
      iva := ⟨0x10#8, 0x00#8⟩, ivl := ⟨0x1F#8, 0x00#8⟩, ioIn := [0xA0#8] }
    (fun s => { s with
      ivl := { s.ivl with left := 0x17#8 }, pc := 0x0101#16, ar := 0x0101#16,
      trace := [.read .left 0x10#8 0xA0#8, .write .left 0x10#8 0x17#8], ioIn := [] }) = true := by
  decide

/-- T16: `MOVE LIV7, 0, RIV7`. -/
theorem test_T16 : goes 0x171F { z with
      iva := ⟨0x10#8, 0x20#8⟩, ivl := ⟨0x00#8, 0x77#8⟩, ioIn := [0xC3#8] }
    (fun s => { s with
      ivl := { s.ivl with right := 0xC3#8 }, pc := 0x0101#16, ar := 0x0101#16,
      trace := [.read .left 0x10#8 0xC3#8, .write .right 0x20#8 0xC3#8], ioIn := [] }) = true := by
  decide

/-- T17: `MOVE LIV4, 3, IVL`. -/
theorem test_T17 : goes 0x1467 { z with
      iva := ⟨0x10#8, 0x00#8⟩, ioIn := [0x2C#8] }
    (fun s => { s with
      iva := { s.iva with left := 0x05#8 }, pc := 0x0101#16, ar := 0x0101#16,
      trace := [.read .left 0x10#8 0x2C#8], ioIn := [] }) = true := by
  decide

/-- T18: `NOP`. -/
theorem test_T18 : goes 0x0000 { z with
      regs := { z.regs with aux := 0x77#8 } }
    (fun s => { s with
      regs := { s.regs with aux := 0x77#8 }, pc := 0x0101#16, ar := 0x0101#16 }) = true := by
  decide

/-- T24: `ADD R2(0), R2`. -/
theorem test_T24 : goes 0x2202 { z with
      regs := { z.regs with r2 := 0x7F#8, aux := 0x01#8 }, ovf := true }
    (fun s => { s with
      regs := { s.regs with r2 := 0x80#8 }, ovf := false, pc := 0x0101#16, ar := 0x0101#16 }) = true := by
  decide

/-- T25: `ADD R10(0), R2`. -/
theorem test_T25 : goes 0x2802 { z with
      regs := { z.regs with aux := 0xFF#8, r2 := 0x00#8 }, ovf := true }
    (fun s => { s with
      regs := { s.regs with r2 := 0x00#8 }, ovf := true, pc := 0x0101#16, ar := 0x0101#16 }) = true := by
  decide

/-- T27: `ADD R3, IVR`. -/
theorem test_T27 : goes 0x230F { z with
      regs := { z.regs with r3 := 0x40#8, aux := 0x02#8 }, ovf := true, iva := ⟨0x00#8, 0x00#8⟩ }
    (fun s => { s with
      ovf := false, iva := { s.iva with right := 0x42#8 }, pc := 0x0101#16, ar := 0x0101#16 }) = true := by
  decide

/-- T28: `ADD R3(1), IVL`. -/
theorem test_T28 : goes 0x2327 { z with
      regs := { z.regs with r3 := 0x03#8, aux := 0x90#8 }, ovf := false, iva := ⟨0x00#8, 0x00#8⟩ }
    (fun s => { s with
      ovf := true, iva := { s.iva with left := 0x11#8 }, pc := 0x0101#16, ar := 0x0101#16 }) = true := by
  decide

/-- T29: `ADD R11, 4, LIV3`. -/
theorem test_T29 : goes 0x2993 { z with
      regs := { z.regs with r11 := 0xFD#8, aux := 0x05#8 }, ovf := false,
      iva := ⟨0x33#8, 0x00#8⟩, ivl := ⟨0xFF#8, 0x00#8⟩ }
    (fun s => { s with
      ovf := true, ivl := { s.ivl with left := 0x2F#8 }, pc := 0x0101#16, ar := 0x0101#16,
      trace := [.write .left 0x33#8 0x2F#8] }) = true := by
  decide

/-- T30: `ADD R11, 4, LIV3`. -/
theorem test_T30 : goes 0x2993 { z with
      regs := { z.regs with r11 := 0x21#8, aux := 0x35#8 }, ovf := true,
      iva := ⟨0x33#8, 0x00#8⟩, ivl := ⟨0x00#8, 0x00#8⟩ }
    (fun s => { s with
      ovf := false, ivl := { s.ivl with left := 0x60#8 }, pc := 0x0101#16, ar := 0x0101#16,
      trace := [.write .left 0x33#8 0x60#8] }) = true := by
  decide

/-- T32: `ADD LIV7, 4, RIV7`. -/
theorem test_T32 : goes 0x379F { z with
      regs := { z.regs with aux := 0x0F#8 }, ovf := true, iva := ⟨0x33#8, 0x44#8⟩,
      ivl := ⟨0x00#8, 0xF0#8⟩, ioIn := [0xAC#8] }
    (fun s => { s with
      ovf := false, ivl := { s.ivl with right := 0xFB#8 }, pc := 0x0101#16, ar := 0x0101#16,
      trace := [.read .left 0x33#8 0xAC#8, .write .right 0x44#8 0xFB#8], ioIn := [] }) = true := by
  decide

/-- T33: `ADD LIV7, 4, R11`. -/
theorem test_T33 : goes 0x3789 { z with
      regs := { z.regs with aux := 0x37#8, r11 := 0x00#8 }, ovf := true,
      iva := ⟨0x33#8, 0x00#8⟩, ioIn := [0xAC#8] }
    (fun s => { s with
      regs := { s.regs with r11 := 0x43#8 }, ovf := false, pc := 0x0101#16, ar := 0x0101#16,
      trace := [.read .left 0x33#8 0xAC#8], ioIn := [] }) = true := by
  decide

/-- T34: `ADD LIV7, 4, R11`. -/
theorem test_T34 : goes 0x3789 { z with
      regs := { z.regs with aux := 0xF7#8, r11 := 0x00#8 }, ovf := false,
      iva := ⟨0x33#8, 0x00#8⟩, ioIn := [0xAC#8] }
    (fun s => { s with
      regs := { s.regs with r11 := 0x03#8 }, ovf := true, pc := 0x0101#16, ar := 0x0101#16,
      trace := [.read .left 0x33#8 0xAC#8], ioIn := [] }) = true := by
  decide

/-- T35: `ADD LIV7, 4, IVR`. -/
theorem test_T35 : goes 0x378F { z with
      regs := { z.regs with aux := 0xF7#8 }, ovf := false, iva := ⟨0x33#8, 0x00#8⟩,
      ioIn := [0xAC#8] }
    (fun s => { s with
      ovf := true, iva := { s.iva with right := 0x03#8 }, pc := 0x0101#16, ar := 0x0101#16,
      trace := [.read .left 0x33#8 0xAC#8], ioIn := [] }) = true := by
  decide

/-- T36: `ADD LIV7, 0, IVL`. -/
theorem test_T36 : goes 0x3707 { z with
      regs := { z.regs with aux := 0x01#8 }, ovf := false, iva := ⟨0x33#8, 0x00#8⟩,
      ioIn := [0x7F#8] }
    (fun s => { s with
      ovf := false, iva := { s.iva with left := 0x80#8 }, pc := 0x0101#16, ar := 0x0101#16,
      trace := [.read .left 0x33#8 0x7F#8], ioIn := [] }) = true := by
  decide

/-- T37: `AND R1(4), R3`. -/
theorem test_T37 : goes 0x4183 { z with
      regs := { z.regs with r1 := 0x2F#8, aux := 0x35#8, r3 := 0xFF#8 }, ovf := true }
    (fun s => { s with
      regs := { s.regs with r3 := 0x30#8 }, pc := 0x0101#16, ar := 0x0101#16 }) = true := by
  decide

/-- T40: `AND R3, IVR`. -/
theorem test_T40 : goes 0x430F { z with
      regs := { z.regs with r3 := 0x5A#8, aux := 0x0F#8 }, iva := ⟨0x00#8, 0xFF#8⟩ }
    (fun s => { s with
      iva := { s.iva with right := 0x0A#8 }, pc := 0x0101#16, ar := 0x0101#16 }) = true := by
  decide

/-- T41: `AND R11, 4, LIV3`. -/
theorem test_T41 : goes 0x4993 { z with
      regs := { z.regs with r11 := 0xFD#8, aux := 0x05#8 }, iva := ⟨0x33#8, 0x00#8⟩,
      ivl := ⟨0xFF#8, 0x00#8⟩ }
    (fun s => { s with
      ivl := { s.ivl with left := 0x5F#8 }, pc := 0x0101#16, ar := 0x0101#16,
      trace := [.write .left 0x33#8 0x5F#8] }) = true := by
  decide

/-- T42: `AND LIV7, 4, R11`. -/
theorem test_T42 : goes 0x5789 { z with
      regs := { z.regs with aux := 0xF7#8, r11 := 0xFF#8 }, iva := ⟨0x33#8, 0x00#8⟩,
      ioIn := [0xAC#8] }
    (fun s => { s with
      regs := { s.regs with r11 := 0x04#8 }, pc := 0x0101#16, ar := 0x0101#16,
      trace := [.read .left 0x33#8 0xAC#8], ioIn := [] }) = true := by
  decide

/-- T43: `AND LIV7, 4, LIV3`. -/
theorem test_T43 : goes 0x5793 { z with
      regs := { z.regs with aux := 0xF7#8 }, iva := ⟨0x33#8, 0x00#8⟩, ivl := ⟨0xAC#8, 0x00#8⟩,
      ioIn := [0xAC#8] }
    (fun s => { s with
      ivl := { s.ivl with left := 0x4C#8 }, pc := 0x0101#16, ar := 0x0101#16,
      trace := [.read .left 0x33#8 0xAC#8, .write .left 0x33#8 0x4C#8], ioIn := [] }) = true := by
  decide

/-- T44: `AND LIV7, 4, IVR`. -/
theorem test_T44 : goes 0x578F { z with
      regs := { z.regs with aux := 0xF7#8 }, iva := ⟨0x33#8, 0xEE#8⟩, ioIn := [0xAC#8] }
    (fun s => { s with
      iva := { s.iva with right := 0x04#8 }, pc := 0x0101#16, ar := 0x0101#16,
      trace := [.read .left 0x33#8 0xAC#8], ioIn := [] }) = true := by
  decide

/-- T45: `XOR R1(4), R3`. -/
theorem test_T45 : goes 0x6183 { z with
      regs := { z.regs with r1 := 0x2F#8, aux := 0x35#8, r3 := 0x00#8 }, ovf := true }
    (fun s => { s with
      regs := { s.regs with r3 := 0xC7#8 }, pc := 0x0101#16, ar := 0x0101#16 }) = true := by
  decide

/-- T46: `XOR AUX(0), AUX`. -/
theorem test_T46 : goes 0x6000 { z with
      regs := { z.regs with aux := 0xC9#8 } }
    (fun s => { s with
      regs := { s.regs with aux := 0x00#8 }, pc := 0x0101#16, ar := 0x0101#16 }) = true := by
  decide

/-- T48: `XOR R3, IVR`. -/
theorem test_T48 : goes 0x630F { z with
      regs := { z.regs with r3 := 0x5A#8, aux := 0x0F#8 }, iva := ⟨0x00#8, 0x00#8⟩ }
    (fun s => { s with
      iva := { s.iva with right := 0x55#8 }, pc := 0x0101#16, ar := 0x0101#16 }) = true := by
  decide

/-- T49: `XOR R11, 4, LIV3`. -/
theorem test_T49 : goes 0x6993 { z with
      regs := { z.regs with r11 := 0xFD#8, aux := 0x05#8 }, iva := ⟨0x33#8, 0x00#8⟩,
      ivl := ⟨0xFF#8, 0x00#8⟩ }
    (fun s => { s with
      ivl := { s.ivl with left := 0x8F#8 }, pc := 0x0101#16, ar := 0x0101#16,
      trace := [.write .left 0x33#8 0x8F#8] }) = true := by
  decide

/-- T50: `XOR LIV7, 4, R11`. -/
theorem test_T50 : goes 0x7789 { z with
      regs := { z.regs with aux := 0xF7#8, r11 := 0x00#8 }, iva := ⟨0x33#8, 0x00#8⟩,
      ioIn := [0xAC#8] }
    (fun s => { s with
      regs := { s.regs with r11 := 0xFB#8 }, pc := 0x0101#16, ar := 0x0101#16,
      trace := [.read .left 0x33#8 0xAC#8], ioIn := [] }) = true := by
  decide

/-- T52: `XOR LIV5, 1, LIV5`. -/
theorem test_T52 : goes 0x7535 { z with
      regs := { z.regs with aux := 0x01#8 }, iva := ⟨0x33#8, 0x00#8⟩, ivl := ⟨0xAC#8, 0x00#8⟩,
      ioIn := [0xAC#8] }
    (fun s => { s with
      ivl := { s.ivl with left := 0xA8#8 }, pc := 0x0101#16, ar := 0x0101#16,
      trace := [.read .left 0x33#8 0xAC#8, .write .left 0x33#8 0xA8#8], ioIn := [] }) = true := by
  decide

/-- T53: `XOR LIV7, 4, IVR`. -/
theorem test_T53 : goes 0x778F { z with
      regs := { z.regs with aux := 0xF7#8 }, iva := ⟨0x33#8, 0x00#8⟩, ioIn := [0xAC#8] }
    (fun s => { s with
      iva := { s.iva with right := 0xFB#8 }, pc := 0x0101#16, ar := 0x0101#16,
      trace := [.read .left 0x33#8 0xAC#8], ioIn := [] }) = true := by
  decide

/-- T55: `XEC 315 (R3)`. -/
theorem test_T55 : goes 0x83CD { z with
      regs := { z.regs with r3 := 0x40#8 }, ovf := false }
    (fun s => { s with
      pc := 0x0100#16, ar := 0x010D#16 }) = true := by
  decide

/-- T57: `XEC 315 (R3)`. -/
theorem test_T57 : goes 0x83CD { z with
      regs := { z.regs with r3 := 0x10#8 }, pc := 0x54FF#16, ar := 0x54FF#16 }
    (fun s => { s with
      pc := 0x54FF#16, ar := 0x54DD#16 }) = true := by
  decide

/-- T59: `XEC @37 (LIV7,3)`. -/
theorem test_T59 : goes 0x977F { z with
      iva := ⟨0x33#8, 0x00#8⟩, ioIn := [0x07#8], pc := 0x01E5#16, ar := 0x01E5#16 }
    (fun s => { s with
      pc := 0x01E5#16, ar := 0x01E6#16, trace := [.read .left 0x33#8 0x07#8], ioIn := [] }) = true := by
  decide

/-- T60: `XEC @00 (RIV7,5)`. -/
theorem test_T60 : goes 0x9FA0 { z with
      iva := ⟨0x00#8, 0x44#8⟩, ioIn := [0xFF#8] }
    (fun s => { s with
      pc := 0x0100#16, ar := 0x011F#16, trace := [.read .right 0x44#8 0xFF#8], ioIn := [] }) = true := by
  decide

/-- T62: `NZT R6, $32`. -/
theorem test_T62 : goes 0xA632 { z with
      regs := { z.regs with r6 := 0x00#8 }, pc := 0x5417#16, ar := 0x5417#16 }
    (fun s => { s with
      pc := 0x5418#16, ar := 0x5418#16 }) = true := by
  decide

/-- T63: `NZT R6, $20`. -/
theorem test_T63 : goes 0xA620 { z with
      regs := { z.regs with r6 := 0x80#8 }, pc := 0x01FF#16, ar := 0x01FF#16 }
    (fun s => { s with
      pc := 0x0120#16, ar := 0x0120#16 }) = true := by
  decide

/-- T67: `NZT LIV5, 1, @15`. -/
theorem test_T67 : goes 0xB52D { z with
      iva := ⟨0x33#8, 0x00#8⟩, ioIn := [0x04#8], pc := 0x0043#16, ar := 0x0043#16 }
    (fun s => { s with
      pc := 0x004D#16, ar := 0x004D#16, trace := [.read .left 0x33#8 0x04#8], ioIn := [] }) = true := by
  decide

/-- T68: `NZT LIV5, 1, @15`. -/
theorem test_T68 : goes 0xB52D { z with
      iva := ⟨0x33#8, 0x00#8⟩, ioIn := [0xFB#8], pc := 0x0043#16, ar := 0x0043#16 }
    (fun s => { s with
      pc := 0x0044#16, ar := 0x0044#16, trace := [.read .left 0x33#8 0xFB#8], ioIn := [] }) = true := by
  decide

/-- T70: `CALL $34`. -/
theorem test_T70 : goes 0xA734 { z with
      regs := { z.regs with aux := 0x12#8 } }
    (fun s => { s with
      stk := [0x0101#16], pc := 0x1234#16, ar := 0x1234#16 }) = true := by
  decide

/-- T72: `CALL $00`. -/
theorem test_T72 : stops 0xA700 { z with
      regs := { z.regs with aux := 0xFF#8 },
      stk := [0x0001#16, 0x0002#16, 0x0003#16, 0x0004#16, 0x0005#16, 0x0006#16, 0x0007#16, 0x0008#16] }
    .callStackOverflow = true := by
  decide

/-- T74: `RET`. -/
theorem test_T74 : goes 0xAF00 { z with
      stk := [0x0101#16, 0xFFFE#16], pc := 0x1240#16, ar := 0x1240#16 }
    (fun s => { s with
      stk := [0x0101#16], pc := 0xFFFE#16, ar := 0xFFFE#16 }) = true := by
  decide

/-- T75: `RET`. -/
theorem test_T75 : stops 0xAF00 { z with
      pc := 0x1240#16, ar := 0x1240#16 }
    .returnOnEmptyStack = true := by
  decide

/-- T76: `XMIT @377, AUX`. -/
theorem test_T76 : goes 0xC0FF { z with
      regs := { z.regs with aux := 0x00#8 } }
    (fun s => { s with
      regs := { s.regs with aux := 0xFF#8 }, pc := 0x0101#16, ar := 0x0101#16 }) = true := by
  decide

/-- T77: `XMIT $80, R11`. -/
theorem test_T77 : goes 0xC980 { z with
      regs := { z.regs with r11 := 0x00#8 } }
    (fun s => { s with
      regs := { s.regs with r11 := 0x80#8 }, pc := 0x0101#16, ar := 0x0101#16 }) = true := by
  decide

/-- T78: `XMIT @053, IVL`. -/
theorem test_T78 : goes 0xC72B { z with
      iva := ⟨0x00#8, 0x00#8⟩, ivl := ⟨0x55#8, 0x66#8⟩ }
    (fun s => { s with
      iva := { s.iva with left := 0x2B#8 }, pc := 0x0101#16, ar := 0x0101#16 }) = true := by
  decide

/-- T83: `XMIT $1F, RIV7, 7`. -/
theorem test_T83 : goes 0xDFFF { z with
      iva := ⟨0x00#8, 0x2C#8⟩, ivl := ⟨0x00#8, 0xFF#8⟩ }
    (fun s => { s with
      ivl := { s.ivl with right := 0x9F#8 }, pc := 0x0101#16, ar := 0x0101#16,
      trace := [.write .right 0x2C#8 0x9F#8] }) = true := by
  decide

/-- T85: `XMIT $15, LIV2, 5`. -/
theorem test_T85 : goes 0xD2B5 { z with
      iva := ⟨0x2B#8, 0x00#8⟩, ivl := ⟨0x0F#8, 0x00#8⟩ }
    (fun s => { s with
      ivl := { s.ivl with left := 0xAF#8 }, pc := 0x0101#16, ar := 0x0101#16,
      trace := [.write .left 0x2B#8 0xAF#8] }) = true := by
  decide

/-- T87: `JMP @512`. -/
theorem test_T87 : goes 0xE14A { z with
      pc := 0xE000#16, ar := 0xE000#16 }
    (fun s => { s with
      pc := 0x014A#16, ar := 0x014A#16 }) = true := by
  decide

/-- T89: `JMP $0100`. -/
theorem test_T89 : goes 0xE100 z
    (fun s => { s with
      pc := 0x0100#16, ar := 0x0100#16 }) = true := by
  decide

/-! ## States and operands that meet the hypotheses of each statement -/

/-- A state with a history: AUX and a latch not zero, one write done, one entry stacked. -/
def y : State :=
  { z with regs := { z.regs with aux := 0x12#8, r1 := 0xFF#8, r6 := 0x01#8 }, ovf := true
           iva := ⟨0x10#8, 0x20#8⟩, ivl := ⟨0x5A#8, 0xA5#8⟩, stk := [0x0042#16]
           ioIn := [0xB1#8], trace := [.write .left 0x10#8 0x5A#8] }

/-- Seven addresses stacked. -/
def seven : List Addr := [1#16, 2#16, 3#16, 4#16, 5#16, 6#16, 7#16]

/-- `XEC $11 (AUX)` at 0x0100, `XEC $00 (R1)` at its target 0x0123, `XMIT $AA, R2` at the target of
that. -/
def chain : State :=
  { y with prog := [(0x0100, 0x8011#16), (0x0123, 0x8100#16), (0x01FF, 0xC2AA#16)] }

theorem test_witness_StepKeepsTheInvariant :
    (y.withFetchWord 16 0x0975).Inv ∧ ∃ t, step (y.withFetchWord 16 0x0975) = .next t :=
  ⟨{ progWf := by decide
     depth := by decide
     latch := by
      intro b v h
      cases b
      · cases h; rfl
      · cases h },
   _, rfl⟩

theorem test_witness_runs :
    ∃ t, RunsTo 2 { y with prog := [(0x0100, 0x0975#16), (0x0101, 0xE101#16)] } t :=
  ⟨_, rfl⟩

/-- MOVE, AND and XOR are not ADD. -/
theorem test_witness_op :
    DataOp.move ≠ .add ∧ DataOp.and ≠ .add ∧ DataOp.xor ≠ .add := by
  decide

theorem test_witness_DecodeOfEncode :
    (Instr.xecV ⟨.right, 0#3⟩ 1#3 31#5).wellFormed = true ∧
    (Instr.moveRr .ovf 7#3 .r11).wellFormed = true := by
  decide

theorem test_witness_EncodeOfDecode : decode 0xFFFF#16 = .ok (.jmp 0x1FFF#13) := rfl

/-- With no Miss level listed, and with `D_Miss` high at an instruction that needs no I/O bus. -/
theorem test_witness_StepRuns :
    ((y.withFetchWord 16 0x1181).progRead y.ar = some 0x1181#16 ∧
      decode 0x1181#16 = .ok (.moveVr ⟨.left, 1#3⟩ 4#3 .r1) ∧
      (y.withFetchWord 16 0x1181).pMissNow = false ∧ (y.withFetchWord 16 0x1181).dMissNow = false ∧
      (y.withFetchWord 16 0x1181).miss = []) ∧
    (∃ s : State, s.progRead s.ar = some 0x2101#16 ∧
      decode 0x2101#16 = .ok (.addRr (.gpr .r1) 0#3 .r1) ∧ s.pMissNow = false ∧
      s.dMissNow = true ∧ usesIoBus (.addRr (.gpr .r1) 0#3 .r1) = false) :=
  ⟨⟨rfl, rfl, rfl, rfl, rfl⟩,
   { y with prog := [(0x0100, 0x2101#16)], miss := [⟨false, true⟩] }, rfl, rfl, rfl, rfl, rfl⟩

/-- An empty `PROG`, and a reserved word at the last address. -/
theorem test_witness_UnfetchableAndReserved :
    (y.pMissNow = false ∧ y.progRead y.ar = none) ∧
    (∃ s : State, s.pMissNow = false ∧ s.progRead s.ar = some 0xAF01#16 ∧
      decode 0xAF01#16 = .error .v7) :=
  ⟨⟨rfl, rfl⟩, { y with ar := 0xFFFF#16, prog := [(0xFFFF, 0xAF01#16)] }, rfl, rfl, rfl⟩

/-- First `P_Miss`, then `D_Miss`, hold an I/O instruction back; without them it steps. -/
theorem test_witness_MissInputsOnlyDelay :
    (∀ m ∈ [MissLevels.mk true false, MissLevels.mk false true], m.pMiss = true ∨
      (m.dMiss = true ∧ ∃ i, (y.withFetchWord 16 0x1181).fetchInstr = .ok i ∧
        usesIoBus i = true)) ∧
    ∃ t, step { y.withFetchWord 16 0x1181 with miss := [] } = .next t := by
  refine ⟨?_, _, rfl⟩
  intro m hm
  simp only [List.mem_cons, List.not_mem_nil, or_false] at hm
  rcases hm with rfl | rfl
  · exact .inl rfl
  · exact .inr ⟨rfl, _, rfl, rfl⟩

theorem test_witness_DataMiss :
    (y.withFetchWord 16 0x2101).fetchInstr = .ok (.addRr (.gpr .r1) 0#3 .r1) ∧
    usesIoBus (.addRr (.gpr .r1) 0#3 .r1) = false ∧
    ∃ t, step { y.withFetchWord 16 0x2101 with miss := [] } = .next t :=
  ⟨rfl, rfl, _, rfl⟩

theorem test_witness_LoadedWordRunsNext :
    65535 < 65536 ∧ decodeTableWord 16 65535 = some (.jmp 0x1FFF#13) := by
  decide

/-- One `exec` that ends in a next state, of each kind the whole-machine statements name: a bank
read and write, an ADD, an XEC, a jump, a fall-through at the last address. -/
theorem test_witness_next :
    (∃ t, exec (.addVv ⟨.left, 1#3⟩ 4#3 ⟨.right, 3#3⟩) y = .next t) ∧
    (∃ t, exec (.xecR (.gpr .r1) 2#8) y = .next t) ∧
    (∃ t, exec (.jmp 0x1FFF#13) y = .next t) ∧
    (∃ t, exec .nop { y with pc := 0xFFFF#16, ar := 0xFFFF#16 } = .next t ∧ t.pc = 0#16) :=
  ⟨⟨_, rfl⟩, ⟨_, rfl⟩, ⟨_, rfl⟩, _, rfl, rfl⟩

/-- A next state, by an ADD and by another, and a fault. -/
theorem test_witness_OverflowIsReadOnly :
    (regSource (.addRr (.gpr .r1) 0#3 .r1) ≠ some .ovf ∧
      ∃ t, exec (.addRr (.gpr .r1) 0#3 .r1) y = .next t) ∧
    (regSource (.xmitR .r1 9#8) ≠ some .ovf ∧ ∃ t, exec (.xmitR .r1 9#8) y = .next t) ∧
    (regSource .ret ≠ some .ovf ∧ ∃ f, exec .ret z = .fault f) :=
  ⟨⟨by decide, _, rfl⟩, ⟨by decide, _, rfl⟩, by decide, _, rfl⟩

/-- An instruction that writes one address register, one that writes none, and a fault. -/
theorem test_witness_AddressRegisters :
    (usesIoBus (.xmitA .left 9#8) = false ∧ ∃ t, exec (.xmitA .left 9#8) y = .next t) ∧
    (usesIoBus .ret = false ∧ ∃ t, exec .ret y = .next t) ∧
    (usesIoBus .ret = false ∧ ∃ f, exec .ret z = .fault f) :=
  ⟨⟨rfl, _, rfl⟩, ⟨rfl, _, rfl⟩, rfl, _, rfl⟩

theorem test_witness_Latches :
    (ioWriteBank (.addVr ⟨.left, 7#3⟩ 0#3 .r1) = none ∧
      ∃ t, exec (.addVr ⟨.left, 7#3⟩ 0#3 .r1) y = .next t) ∧
    (ioWriteBank .ret = none ∧ ∃ f, exec .ret z = .fault f) :=
  ⟨⟨rfl, _, rfl⟩, rfl, _, rfl⟩

/-- The two ends of the range of L. -/
theorem test_witness_XecField :
    (1 ≤ (1#3).toNat ∧ (1#3).toNat ≤ 5) ∧ (1 ≤ (5#3).toNat ∧ (5#3).toNat ≤ 5) := by
  decide

/-- No XEC, one, and a chain of two before `XMIT $AA, R2`. -/
theorem test_witness_XecTarget :
    (∃ s u t, s.miss = [] ∧ s.pc = s.ar ∧ xecRun 0 s = some u ∧
      u.fetchInstr = .ok (.xmitR .r2 0xAA#8) ∧ step u = .next t) ∧
    (∃ s u t, s.miss = [] ∧ s.pc = s.ar ∧ xecRun 1 s = some u ∧
      u.fetchInstr = .ok (.xmitR .r2 0xAA#8) ∧ step u = .next t) ∧
    (∃ u t, chain.miss = [] ∧ chain.pc = chain.ar ∧ xecRun 2 chain = some u ∧
      u.fetchInstr = .ok (.xmitR .r2 0xAA#8) ∧ step u = .next t) ∧
    isXec (.xmitR .r2 0xAA#8) = false ∧ mayJump (.xmitR .r2 0xAA#8) = false :=
  ⟨⟨{ y with prog := [(0x0100, 0xC2AA#16)] }, _, _, rfl, rfl, rfl, rfl, rfl⟩,
   ⟨{ y with prog := [(0x0100, 0x8011#16), (0x0123, 0xC2AA#16)] }, _, _, rfl, rfl, rfl, rfl, rfl⟩,
   ⟨_, _, rfl, rfl, rfl, rfl, rfl⟩, rfl, rfl⟩

/-- `XEC $11 (AUX)` at 0x0100 before a JMP, an NZT.r that jumps, and a CALL to the eighth level. -/
theorem test_witness_JumpsInTheShadow :
    (∃ s u, s.miss = [] ∧ s.pc = s.ar ∧ xecRun 1 s = some u ∧
      u.fetchInstr = .ok (.jmp 0x1FFF#13)) ∧
    (∃ s u, s.miss = [] ∧ s.pc = s.ar ∧ xecRun 1 s = some u ∧
      u.fetchInstr = .ok (.nztR (.gpr .r6) 0xFF#8) ∧ u.readSrc (.gpr .r6) ≠ 0#8) ∧
    (∃ s u, s.miss = [] ∧ s.pc = s.ar ∧ xecRun 1 s = some u ∧
      u.fetchInstr = .ok (.call 0x34#8) ∧ s.stk.length < 8 ∧ s.stk = seven) :=
  ⟨⟨{ y with prog := [(0x0100, 0x8011#16), (0x0123, 0xFFFF#16)] }, _, rfl, rfl, rfl, rfl⟩,
   ⟨{ y with prog := [(0x0100, 0x8011#16), (0x0123, 0xA6FF#16)] }, _, rfl, rfl, rfl, rfl,
     by decide⟩,
   ⟨{ y with prog := [(0x0100, 0x8011#16), (0x0123, 0xA734#16)], stk := seven }, _, rfl, rfl, rfl,
     rfl, by decide, rfl⟩⟩

/-- NZT: a register and a field that are not zero, and that are. -/
theorem test_witness_Nzt :
    y.readSrc (.gpr .r6) ≠ 0#8 ∧ y.readSrc (.gpr .r2) = 0#8 ∧
    (∃ v, FieldBits (y.ioAnswer .left) 7#3 1#3 v ∧ v ≠ 0#8) ∧
    (∃ v, FieldBits (y.ioAnswer .left) 6#3 1#3 v ∧ v = 0#8) :=
  ⟨by decide, rfl, ⟨1#8, fun k _ => by interval_cases k <;> decide, by decide⟩,
   0#8, fun k _ => by interval_cases k <;> decide, rfl⟩

/-- Stacks of seven and of eight for CALL, of one and of two for RET, and the empty one. -/
theorem test_witness_stack :
    (∃ s : State, s.stk.length < 8 ∧ s.stk.length = 7) ∧ (∃ s : State, s.stk.length = 8) ∧
    (∃ s : State, s.stk = [] ++ [0x0042#16]) ∧
    (∃ s : State, s.stk = [1#16] ++ [0xFFFE#16]) ∧ (∃ s : State, s.stk = []) :=
  ⟨⟨{ y with stk := seven }, by decide, rfl⟩, ⟨{ y with stk := seven ++ [8#16] }, rfl⟩, ⟨y, rfl⟩,
   ⟨{ y with stk := [1#16, 0xFFFE#16] }, rfl⟩, z, rfl⟩

/-- The highest address a JMP can name. -/
theorem test_witness_JmpToItself :
    ∃ s : State, s.miss = [] ∧ s.pc = s.ar ∧ s.ar.toNat = (0x1FFF#13).toNat ∧
      s.progRead s.ar = some (encode (.jmp 0x1FFF#13)) :=
  ⟨{ y with pc := 0x1FFF#16, ar := 0x1FFF#16, prog := [(0x1FFF, 0xFFFF#16)] }, rfl, rfl, rfl, rfl⟩

/-- `XEC $11 (AUX)` at 0x0100 before an NZT on R2, which is zero, and before an NZT on a field of
one bit that reads as zero. -/
theorem test_witness_UntakenNzt :
    (∃ s u, s.miss = [] ∧ s.pc = s.ar ∧ xecRun 1 s = some u ∧
      u.fetchInstr = .ok (.nztR (.gpr .r2) 0xFF#8) ∧ u.readSrc (.gpr .r2) = 0#8) ∧
    (∃ s u, s.miss = [] ∧ s.pc = s.ar ∧ xecRun 1 s = some u ∧
      u.fetchInstr = .ok (.nztV ⟨.left, 6#3⟩ 1#3 31#5) ∧ FieldBits (u.ioAnswer .left) 6#3 1#3 0#8) :=
  ⟨⟨{ y with prog := [(0x0100, 0x8011#16), (0x0123, 0xA2FF#16)] }, _, rfl, rfl, rfl, rfl, rfl⟩,
   ⟨{ y with prog := [(0x0100, 0x8011#16), (0x0123, 0xB63F#16)] }, _, rfl, rfl, rfl, rfl,
     fun k _ => by interval_cases k <;> decide⟩⟩

end Sys2Proof.Tests
end

/-! PROOF. The accesses to the banks' data buses that each shared meaning performs, in the words of
Safety.lean (`NoIo`, `OneRead`, `OneWrite`, `ReadThenWrite`), and from them those of every
instruction (20_memory.md R53, R54, R58). -/

namespace Sys2Proof.Machine

/-! ## The shared meanings -/

section
variable {op : DataOp} {src : SReg} {fld : IvSel} {rl : BitVec 3} {d : GReg} {b : Bank}
  {f : IvSel} {s t : State}

theorem dataRr_noIo (h : dataRr op src rl d s = .next t) : NoIo s t := by
  obtain rfl := dataRr_next h
  exact ⟨rfl, rfl⟩

theorem dataRa_noIo (h : dataRa op src rl b s = .next t) : NoIo s t := by
  obtain rfl := dataRa_next h
  exact ⟨rfl, rfl⟩

theorem dataVr_oneRead (h : dataVr op fld rl d s = .next t) : OneRead fld.bank s t := by
  obtain rfl := dataVr_next h
  exact ⟨rfl, rfl⟩

theorem dataVa_oneRead (h : dataVa op fld rl b s = .next t) : OneRead fld.bank s t := by
  obtain rfl := dataVa_next h
  exact ⟨rfl, rfl⟩

/-- The byte written is the one the latch then holds (R54). -/
theorem dataRv_oneWrite (h : dataRv op src rl f s = .next t) :
    OneWrite f.bank (t.ivl.get f.bank) s t := by
  obtain rfl := dataRv_next h
  simp [OneWrite, writeEvent]

/-- The read comes first (D25), and the write uses the address from before it. -/
theorem dataVv_readThenWrite (h : dataVv op fld rl f s = .next t) :
    ReadThenWrite fld.bank f.bank (t.ivl.get f.bank) s t := by
  obtain rfl := dataVv_next h
  simp [ReadThenWrite, readEvent, writeEvent]

end

/-! ## The instructions with a meaning of their own -/

section
variable {fld : IvSel} {len : BitVec 3} {imm : BitVec 5} {s t : State}

theorem execXecV_oneRead (h : execXecV fld len imm s = .next t) : OneRead fld.bank s t := by
  cases h
  exact ⟨rfl, rfl⟩

/-- The field is read whether or not the jump is taken (R201). -/
theorem execNztV_oneRead (h : execNztV fld len imm s = .next t) : OneRead fld.bank s t := by
  cases h
  exact ⟨rfl, rfl⟩

/-- No read comes before the write (conflict C8, D16). -/
theorem execXmitV_oneWrite (h : execXmitV fld len imm s = .next t) :
    OneWrite fld.bank (t.ivl.get fld.bank) s t := by
  cases h
  simp [OneWrite, writeEvent]

theorem execCall_noIo {imm : BitVec 8} (h : execCall imm s = .next t) : NoIo s t := by
  obtain ⟨-, rfl⟩ := execCall_next h
  exact ⟨rfl, rfl⟩

theorem execRet_noIo (h : execRet s = .next t) : NoIo s t := by
  obtain ⟨a, -, rfl⟩ := execRet_next h
  exact ⟨rfl, rfl⟩

end

/-! ## Every instruction -/

/-- From `s` to `t` there is a read of the bank in `rd`, if one is there, then a write on the bank
in `wr`, if one is there, of the byte its latch holds in `t`, and no other access (R58). -/
def AccessesBanks (rd wr : Option Bank) (s t : State) : Prop :=
  t.trace = s.trace ++ (rd.toList.map (readEvent s) ++
    wr.toList.map (fun b => writeEvent s b (t.ivl.get b))) ∧
  t.ioIn = s.ioIn.drop rd.toList.length

section
variable {b c : Bank} {s t : State}

theorem accessesBanks_none_none : AccessesBanks none none s t ↔ NoIo s t := by
  simp [AccessesBanks, NoIo]

theorem accessesBanks_some_none : AccessesBanks (some b) none s t ↔ OneRead b s t := by
  simp [AccessesBanks, OneRead]

theorem accessesBanks_none_some :
    AccessesBanks none (some b) s t ↔ OneWrite b (t.ivl.get b) s t := by
  simp [AccessesBanks, OneWrite]

theorem accessesBanks_some_some :
    AccessesBanks (some b) (some c) s t ↔ ReadThenWrite b c (t.ivl.get c) s t := by
  simp [AccessesBanks, ReadThenWrite]

end

/-- An instruction reads the bank of its source and writes the bank of its destination, and touches
no data bus besides. -/
theorem exec_accessesBanks {i : Instr} {s t : State} (h : exec i s = .next t) :
    AccessesBanks (ioReadBank i) (ioWriteBank i) s t := by
  cases i with
  | moveRr | addRr | andRr | xorRr => exact accessesBanks_none_none.2 (dataRr_noIo h)
  | moveRa | addRa | andRa | xorRa => exact accessesBanks_none_none.2 (dataRa_noIo h)
  | moveRv | addRv | andRv | xorRv => exact accessesBanks_none_some.2 (dataRv_oneWrite h)
  | moveVr | addVr | andVr | xorVr => exact accessesBanks_some_none.2 (dataVr_oneRead h)
  | moveVa | addVa | andVa | xorVa => exact accessesBanks_some_none.2 (dataVa_oneRead h)
  | moveVv | addVv | andVv | xorVv => exact accessesBanks_some_some.2 (dataVv_readThenWrite h)
  | xecV => exact accessesBanks_some_none.2 (execXecV_oneRead h)
  | nztV => exact accessesBanks_some_none.2 (execNztV_oneRead h)
  | xmitV => exact accessesBanks_none_some.2 (execXmitV_oneWrite h)
  | call => exact accessesBanks_none_none.2 (execCall_noIo h)
  | ret => exact accessesBanks_none_none.2 (execRet_noIo h)
  | nop | xecR | nztR | xmitR | xmitA | jmp =>
    cases h
    exact accessesBanks_none_none.2 ⟨rfl, rfl⟩

/-- Settles O16, by the accesses of each form. -/
theorem atMostOneReadThenOneWrite : Obligations.AtMostOneReadThenOneWrite :=
  fun _ _ _ h => exec_accessesBanks h

end Sys2Proof.Machine

/-! PROOF. The forms of the data operations whose destination is a register or an address register
(41_move.md, 43_and.md, 44_xor.md): the word and the meaning of each form for any operation, what
the shared meaning does in the words of Safety.lean, and NOP. The laws hold for every operation, so
they serve 42_add.md too. -/

namespace Sys2Proof.Machine

/-! ## The words (R81, R87, R88) -/

theorem addrNum_toNat (b : Bank) : b.addrNum.toNat = if b = .left then 7 else 15 := by
  cases b <;> rfl

theorem ivNum_toNat (f : IvSel) :
    f.num.toNat = (if f.bank = .left then 16 else 24) + f.bit.toNat := by
  obtain ⟨b, k⟩ := f
  unfold IvSel.num
  rw [toNat_append_eq]
  cases b <;> rfl

theorem wordRd_wordFields (op : BitVec 3) (s : BitVec 5) (rl : BitVec 3) (d : BitVec 5) :
    WordFields (wordRd op s rl d) op.toNat s.toNat rl.toNat d.toNat :=
  wordRd_toNat op s rl d

/-! ## One form, four operations -/

section
variable (op : DataOp) (src : SReg) (fld : IvSel) (rl : BitVec 3) (d : GReg) (b : Bank) (s : State)

theorem encode_rrOf : encode (rrOf op src rl d) = wordRd op.code src.num rl d.num := by
  cases op <;> rfl

theorem encode_raOf : encode (raOf op src rl b) = wordRd op.code src.num rl b.addrNum := by
  cases op <;> rfl

theorem encode_vrOf : encode (vrOf op fld rl d) = wordRd op.code fld.num rl d.num := by
  cases op <;> rfl

theorem encode_vaOf : encode (vaOf op fld rl b) = wordRd op.code fld.num rl b.addrNum := by
  cases op <;> rfl

theorem exec_rrOf : exec (rrOf op src rl d) s = dataRr op src rl d s := by cases op <;> rfl

theorem exec_raOf : exec (raOf op src rl b) s = dataRa op src rl b s := by cases op <;> rfl

theorem exec_vrOf : exec (vrOf op fld rl d) s = dataVr op fld rl d s := by cases op <;> rfl

theorem exec_vaOf : exec (vaOf op fld rl b) s = dataVa op fld rl b s := by cases op <;> rfl

end

/-! ## What a shared meaning does: the source, the ALU, the destination and the frame

The next state is read off the definition, so what the meaning does not write is kept by `rfl`. -/

section
variable (op : DataOp) (src : SReg) (fld : IvSel) (rl : BitVec 3) (d : GReg) (b : Bank) (s : State)

theorem dataRr_spec : ∃ v res flag t,
    RotatedBits (s.readSrc src) rl v ∧ AluGives op v (s.regs.get .aux) s.ovf res flag ∧
    dataRr op src rl d s = .next t ∧
    t.regs.get d = res ∧ t.ovf = flag ∧ KeepsRegsBut d s t ∧ KeepsIva s t ∧ KeepsIvl s t ∧
    KeepsStk s t ∧ KeepsProg s t ∧ KeepsMiss s t ∧ NoIo s t ∧ FallsThrough s t :=
  ⟨s.rotatedSrc src rl, _, _, _, rotr8_bits _ _, aluGives .., rfl,
    Regs.get_set_same .., rfl, fun _ hr => Regs.get_set_other _ _ hr, fun _ => rfl, fun _ => rfl,
    rfl, fun _ => rfl, rfl, dataRr_noIo rfl, rfl, rfl⟩

theorem dataRa_spec : ∃ v res flag t,
    RotatedBits (s.readSrc src) rl v ∧ AluGives op v (s.regs.get .aux) s.ovf res flag ∧
    dataRa op src rl b s = .next t ∧
    t.iva.get b = res ∧ t.ovf = flag ∧ KeepsRegs s t ∧ KeepsIvaBut b s t ∧ KeepsIvl s t ∧
    KeepsStk s t ∧ KeepsProg s t ∧ KeepsMiss s t ∧ NoIo s t ∧ FallsThrough s t :=
  ⟨s.rotatedSrc src rl, _, _, _, rotr8_bits _ _, aluGives .., rfl,
    PerBank.get_set_same .., rfl, fun _ => rfl, fun _ hb => PerBank.get_set_other _ _ hb,
    fun _ => rfl, rfl, fun _ => rfl, rfl, dataRa_noIo rfl, rfl, rfl⟩

theorem dataVr_spec : ∃ v res flag t,
    FieldBits (s.ioAnswer fld.bank) fld.bit rl v ∧
    AluGives op v (s.regs.get .aux) s.ovf res flag ∧
    dataVr op fld rl d s = .next t ∧
    t.regs.get d = res ∧ t.ovf = flag ∧ OneRead fld.bank s t ∧ KeepsRegsBut d s t ∧
    KeepsIva s t ∧ KeepsIvl s t ∧ KeepsStk s t ∧ KeepsProg s t ∧ KeepsMiss s t ∧
    FallsThrough s t :=
  ⟨s.fieldSrc fld rl, _, _, _, extractField_bits _ _ _, aluGives .., rfl,
    Regs.get_set_same .., rfl, dataVr_oneRead rfl, fun _ hr => Regs.get_set_other _ _ hr,
    fun _ => rfl, fun _ => rfl, rfl, fun _ => rfl, rfl, rfl, rfl⟩

theorem dataVa_spec : ∃ v res flag t,
    FieldBits (s.ioAnswer fld.bank) fld.bit rl v ∧
    AluGives op v (s.regs.get .aux) s.ovf res flag ∧
    dataVa op fld rl b s = .next t ∧
    t.iva.get b = res ∧ t.ovf = flag ∧ OneRead fld.bank s t ∧ KeepsRegs s t ∧
    KeepsIvaBut b s t ∧ KeepsIvl s t ∧ KeepsStk s t ∧ KeepsProg s t ∧ KeepsMiss s t ∧
    FallsThrough s t :=
  ⟨s.fieldSrc fld rl, _, _, _, extractField_bits _ _ _, aluGives .., rfl,
    PerBank.get_set_same .., rfl, dataVa_oneRead rfl, fun _ => rfl,
    fun _ hb => PerBank.get_set_other _ _ hb, fun _ => rfl, rfl, fun _ => rfl, rfl, rfl, rfl⟩

end

/-- Settles O23: the shared meaning `.rr` for each operation. -/
theorem registerToRegisterForms : Obligations.RegisterToRegisterForms := by
  intro op src rot dst s _
  rw [encode_rrOf, exec_rrOf]
  exact ⟨wordRd_wordFields .., dataRr_spec ..⟩

/-- Settles O24: the shared meaning `.ra` for each operation. -/
theorem registerToAddressRegisterForms : Obligations.RegisterToAddressRegisterForms := by
  intro op src rot dst s _
  rw [encode_raOf, exec_raOf, ← addrNum_toNat]
  exact ⟨wordRd_wordFields .., dataRa_spec ..⟩

/-- Settles O26: the shared meaning `.vr` for each operation. -/
theorem fieldToRegisterForms : Obligations.FieldToRegisterForms := by
  intro op src len dst s _
  rw [encode_vrOf, exec_vrOf, ← ivNum_toNat]
  exact ⟨wordRd_wordFields .., dataVr_spec ..⟩

/-- Settles O28: the shared meaning `.va` for each operation. -/
theorem fieldToAddressRegisterForms : Obligations.FieldToAddressRegisterForms := by
  intro op src len dst s _
  rw [encode_vaOf, exec_vaOf, ← ivNum_toNat, ← addrNum_toNat]
  exact ⟨wordRd_wordFields .., dataVa_spec ..⟩

/-! ## NOP and its equivalents (R96, R156) -/

theorem rotr8_zero (v : Byte) : rotr8 v 0 = v := by
  unfold rotr8
  rw [BitVec.ushiftRight_zero, BitVec.shiftLeft_eq_zero (Nat.le_refl 8), BitVec.or_zero]

theorem Regs.set_get_self (x : Regs) (r : GReg) : x.set r (x.get r) = x := by cases r <;> rfl

/-- A register moved to itself, not rotated, only advances. -/
theorem execMoveRr_self (r : GReg) (s : State) : execMoveRr (.gpr r) 0#3 r s = .next s.advance := by
  have hsrc : s.rotatedSrc (.gpr r) 0#3 = s.regs.get r := rotr8_zero _
  calc execMoveRr (.gpr r) 0#3 r s
    _ = .next (s.setReg r (s.rotatedSrc (.gpr r) 0#3)).advance := rfl
    _ = .next s.advance := by rw [hsrc, State.setReg, Regs.set_get_self]

/-- Settles O33: the register is written with what it holds. -/
theorem nopAndItsEquivalentsOnlyAdvance : Obligations.NopAndItsEquivalentsOnlyAdvance :=
  fun s => ⟨rfl, rfl, rfl, fun r => execMoveRr_self r s⟩

end Sys2Proof.Machine

/-! PROOF. XEC.r (45_xec.md R190): its word, the address it names inside the 256-word page of `ar`,
and its frame, which is that of a write of `ar` alone. -/

namespace Sys2Proof.Machine

theorem encode_xecR_toNat (src : SReg) (imm : BitVec 8) :
    (encode (.xecR src imm)).toNat = 4 * 8192 + src.num.toNat * 256 + imm.toNat :=
  wordI8_toNat 4#3 src.num imm

/-- The sum wraps inside the page: its carry does not reach the upper byte of the address. -/
theorem replaceLow8_add_toNat (a : Addr) (v imm : Byte) :
    (replaceLow8 a (v + imm)).toNat = a.toNat / 256 * 256 + (v.toNat + imm.toNat) % 256 := by
  rw [replaceLow8_toNat, BitVec.toNat_add]

/-- A write of `ar` keeps everything else. -/
theorem State.setAr_frame (s : State) (a : Addr) :
    (s.setAr a).pc = s.pc ∧ KeepsRegs s (s.setAr a) ∧ KeepsOvf s (s.setAr a) ∧
    KeepsIva s (s.setAr a) ∧ KeepsIvl s (s.setAr a) ∧ KeepsStk s (s.setAr a) ∧
    KeepsProg s (s.setAr a) ∧ KeepsMiss s (s.setAr a) ∧ NoIo s (s.setAr a) :=
  ⟨rfl, fun _ => rfl, rfl, fun _ => rfl, fun _ => rfl, rfl, fun _ => rfl, rfl, rfl, rfl⟩

/-- Settles O36: XEC.r writes `ar` with the sum in its low byte, and nothing else. -/
theorem xecRegisterReplacesLowAddressByte : Obligations.XecRegisterReplacesLowAddressByte :=
  fun src imm s =>
    ⟨encode_xecR_toNat src imm, s.setAr (replaceLow8 s.ar (s.readSrc src + imm)), rfl,
      replaceLow8_add_toNat .., State.setAr_frame ..⟩

end Sys2Proof.Machine

/-! PROOF. XMIT.r and XMIT.a (47_xmit.md R215, R216): the words, and the one register file each
writes before the common increment. No data of a bank moves: the address register alone is loaded. -/

namespace Sys2Proof.Machine

theorem encode_xmitR_toNat (dst : GReg) (imm : BitVec 8) :
    (encode (.xmitR dst imm)).toNat = 6 * 8192 + dst.num.toNat * 256 + imm.toNat :=
  wordI8_toNat 6#3 dst.num imm

theorem encode_xmitA_toNat (dst : Bank) (imm : BitVec 8) :
    (encode (.xmitA dst imm)).toNat =
      6 * 8192 + (if dst = .left then 7 else 15) * 256 + imm.toNat := by
  rw [← addrNum_toNat]
  exact wordI8_toNat 6#3 dst.addrNum imm

theorem exec_xmitR (dst : GReg) (imm : BitVec 8) (s : State) :
    exec (.xmitR dst imm) s = .next (s.setReg dst imm).advance := rfl

theorem exec_xmitA (dst : Bank) (imm : BitVec 8) (s : State) :
    exec (.xmitA dst imm) s = .next (s.setIva dst imm).advance := rfl

section
variable {s t : State}

/-- A general register loaded and the common increment: everything else is kept. -/
theorem setReg_advance_frame {d : GReg} {v : Byte} (h : t = (s.setReg d v).advance) :
    t.regs.get d = v ∧ KeepsRegsBut d s t ∧ KeepsOvf s t ∧ KeepsIva s t ∧ KeepsIvl s t ∧
    KeepsStk s t ∧ KeepsProg s t ∧ KeepsMiss s t ∧ NoIo s t ∧ FallsThrough s t := by
  subst h
  exact ⟨Regs.get_set_same .., fun _ hr => Regs.get_set_other _ _ hr, rfl, fun _ => rfl,
    fun _ => rfl, rfl, fun _ => rfl, rfl, ⟨rfl, rfl⟩, rfl, rfl⟩

/-- An address register loaded and the common increment: everything else is kept, the latches of
both banks too. -/
theorem setIva_advance_frame {d : Bank} {v : Byte} (h : t = (s.setIva d v).advance) :
    t.iva.get d = v ∧ KeepsIvaBut d s t ∧ KeepsRegs s t ∧ KeepsOvf s t ∧ KeepsIvl s t ∧
    KeepsStk s t ∧ KeepsProg s t ∧ KeepsMiss s t ∧ NoIo s t ∧ FallsThrough s t := by
  subst h
  exact ⟨PerBank.get_set_same .., fun _ hb => PerBank.get_set_other _ _ hb, fun _ => rfl, rfl,
    fun _ => rfl, rfl, fun _ => rfl, rfl, ⟨rfl, rfl⟩, rfl, rfl⟩

end

/-- Settles O47: XMIT.r writes one register with the immediate and advances. -/
theorem xmitLoadsARegister : Obligations.XmitLoadsARegister :=
  fun dst imm s =>
    ⟨encode_xmitR_toNat dst imm, _, exec_xmitR dst imm s, setReg_advance_frame rfl⟩

/-- Settles O48: XMIT.a writes one address register with the immediate and advances. -/
theorem xmitLoadsAnAddressRegister : Obligations.XmitLoadsAnAddressRegister :=
  fun dst imm s =>
    ⟨encode_xmitA_toNat dst imm, _, exec_xmitA dst imm s, setIva_advance_frame rfl⟩

end Sys2Proof.Machine

/-! PROOF. What one instruction may change (10_state.md, 40_datapath.md R128 to R130, R133): first
each shared meaning, then every instruction. From this frame and the accesses of `AccessesBanks` follow
the invariant and what holds along runs. -/

namespace Sys2Proof.Machine

/-- From `s` to `t` only these may change, besides `pc`, `ar` and the accesses: the register in
`reg`, the address register of the bank in `addr`, the latch of the bank in `latch`, the flag and
the call stack where `flag` and `stack` say so. -/
structure ChangesOnly (reg : Option GReg) (addr latch : Option Bank) (flag stack : Bool)
    (s t : State) : Prop where
  regs : ∀ r, reg ≠ some r → t.regs.get r = s.regs.get r
  iva  : ∀ b, addr ≠ some b → t.iva.get b = s.iva.get b
  ivl  : ∀ b, latch ≠ some b → t.ivl.get b = s.ivl.get b
  ovf  : flag = false → KeepsOvf s t
  stk  : stack = false → KeepsStk s t
  prog : t.prog = s.prog
  miss : KeepsMiss s t

/-- The data operation that writes the flag (R127). -/
def setsFlag : DataOp → Bool
  | .add => true
  | _ => false

/-- The instructions that use the call stack (R32). -/
def usesStack : Instr → Bool
  | .call _ => true
  | .ret => true
  | _ => false

theorem Regs.get_set_of_not_dest (x : Regs) {d r : GReg} (v : Byte) (h : some d ≠ some r) :
    (x.set d v).get r = x.get r :=
  Regs.get_set_other x v fun hr => h (congrArg some hr.symm)

theorem PerBank.get_set_of_not_dest (p : PerBank) {b c : Bank} (v : Byte) (h : some b ≠ some c) :
    (p.set b v).get c = p.get c :=
  PerBank.get_set_other p v fun hc => h (congrArg some hc.symm)

theorem aluFlag_of_not_setsFlag {op : DataOp} (h : setsFlag op = false) (v a : Byte) (old : Bool) :
    aluFlag op v a old = old := by
  cases op with
  | add => cases h
  | move | and | xor => rfl

/-! ## The shared meanings -/

section
variable {op : DataOp} {src : SReg} {fld : IvSel} {rl : BitVec 3} {d : GReg} {b : Bank}
  {f : IvSel} {s t : State} {stack : Bool}

theorem dataRr_changesOnly (h : dataRr op src rl d s = .next t) :
    ChangesOnly (some d) none none (setsFlag op) stack s t := by
  obtain rfl := dataRr_next h
  exact ⟨fun _ hr => Regs.get_set_of_not_dest _ _ hr, fun _ _ => rfl, fun _ _ => rfl,
    fun hop => aluFlag_of_not_setsFlag hop .., fun _ => rfl, rfl, rfl⟩

theorem dataRa_changesOnly (h : dataRa op src rl b s = .next t) :
    ChangesOnly none (some b) none (setsFlag op) stack s t := by
  obtain rfl := dataRa_next h
  exact ⟨fun _ _ => rfl, fun _ hb => PerBank.get_set_of_not_dest _ _ hb, fun _ _ => rfl,
    fun hop => aluFlag_of_not_setsFlag hop .., fun _ => rfl, rfl, rfl⟩

theorem dataRv_changesOnly (h : dataRv op src rl f s = .next t) :
    ChangesOnly none none (some f.bank) (setsFlag op) stack s t := by
  obtain rfl := dataRv_next h
  exact ⟨fun _ _ => rfl, fun _ _ => rfl, fun _ hb => PerBank.get_set_of_not_dest _ _ hb,
    fun hop => aluFlag_of_not_setsFlag hop .., fun _ => rfl, rfl, rfl⟩

theorem dataVr_changesOnly (h : dataVr op fld rl d s = .next t) :
    ChangesOnly (some d) none none (setsFlag op) stack s t := by
  obtain rfl := dataVr_next h
  exact ⟨fun _ hr => Regs.get_set_of_not_dest _ _ hr, fun _ _ => rfl, fun _ _ => rfl,
    fun hop => aluFlag_of_not_setsFlag hop .., fun _ => rfl, rfl, rfl⟩

theorem dataVv_changesOnly (h : dataVv op fld rl f s = .next t) :
    ChangesOnly none none (some f.bank) (setsFlag op) stack s t := by
  obtain rfl := dataVv_next h
  exact ⟨fun _ _ => rfl, fun _ _ => rfl, fun _ hb => PerBank.get_set_of_not_dest _ _ hb,
    fun hop => aluFlag_of_not_setsFlag hop .., fun _ => rfl, rfl, rfl⟩

theorem dataVa_changesOnly (h : dataVa op fld rl b s = .next t) :
    ChangesOnly none (some b) none (setsFlag op) stack s t := by
  obtain rfl := dataVa_next h
  exact ⟨fun _ _ => rfl, fun _ hb => PerBank.get_set_of_not_dest _ _ hb, fun _ _ => rfl,
    fun hop => aluFlag_of_not_setsFlag hop .., fun _ => rfl, rfl, rfl⟩

end

/-! ## Every instruction -/

theorem exec_changesOnly {i : Instr} {s t : State} (h : exec i s = .next t) :
    ChangesOnly (destReg i) (destIva i) (ioWriteBank i) (isAdd i) (usesStack i) s t := by
  cases i with
  | moveRr | addRr | andRr | xorRr => exact dataRr_changesOnly h
  | moveRa | addRa | andRa | xorRa => exact dataRa_changesOnly h
  | moveRv | addRv | andRv | xorRv => exact dataRv_changesOnly h
  | moveVr | addVr | andVr | xorVr => exact dataVr_changesOnly h
  | moveVv | addVv | andVv | xorVv => exact dataVv_changesOnly h
  | moveVa | addVa | andVa | xorVa => exact dataVa_changesOnly h
  | nop | xecR | xecV | nztR | nztV | jmp =>
    cases h
    exact ⟨fun _ _ => rfl, fun _ _ => rfl, fun _ _ => rfl, fun _ => rfl, fun _ => rfl, rfl, rfl⟩
  | call =>
    obtain ⟨-, rfl⟩ := execCall_next h
    exact ⟨fun _ _ => rfl, fun _ _ => rfl, fun _ _ => rfl, fun _ => rfl, nofun, rfl, rfl⟩
  | ret =>
    obtain ⟨a, -, rfl⟩ := execRet_next h
    exact ⟨fun _ _ => rfl, fun _ _ => rfl, fun _ _ => rfl, fun _ => rfl, nofun, rfl, rfl⟩
  | xmitR =>
    cases h
    exact ⟨fun _ hr => Regs.get_set_of_not_dest _ _ hr, fun _ _ => rfl, fun _ _ => rfl,
      fun _ => rfl, fun _ => rfl, rfl, rfl⟩
  | xmitA =>
    cases h
    exact ⟨fun _ _ => rfl, fun _ hb => PerBank.get_set_of_not_dest _ _ hb, fun _ _ => rfl,
      fun _ => rfl, fun _ => rfl, rfl, rfl⟩
  | xmitV =>
    cases h
    exact ⟨fun _ _ => rfl, fun _ _ => rfl, fun _ hb => PerBank.get_set_of_not_dest _ _ hb,
      fun _ => rfl, fun _ => rfl, rfl, rfl⟩

theorem usesStack_eq_false {i : Instr} (hcall : ∀ imm, i ≠ .call imm) (hret : i ≠ .ret) :
    usesStack i = false := by
  unfold usesStack
  split
  · exact absurd rfl (hcall _)
  · exact absurd rfl hret
  · rfl

/-- Settles O15, by the frame of each form. -/
theorem onlyTheNamedDestinationChanges : Obligations.OnlyTheNamedDestinationChanges := by
  intro i s t h
  have hc := exec_changesOnly h
  exact ⟨hc.regs, hc.iva, hc.ivl, hc.ovf,
    fun ⟨hcall, hret⟩ => hc.stk (usesStack_eq_false hcall hret), fun a => congrArg (Memory.read · a.toNat) hc.prog, hc.miss⟩

/-! ## `pc` and `ar` (R133) -/

section
variable {i : Instr} {s t : State}

theorem exec_xec_pc (h : exec i s = .next t) (hx : isXec i = true) : t.pc = s.pc := by
  cases i with
  | xecR | xecV => cases h; rfl
  | _ => cases hx

theorem exec_fallsThrough (h : exec i s = .next t) (hx : isXec i = false)
    (hj : mayJump i = false) : FallsThrough s t := by
  cases i with
  | xecR | xecV => cases hx
  | nztR | nztV | call | ret | jmp => cases hj
  | _ => cases h; exact ⟨rfl, rfl⟩

theorem exec_jump_ar (h : exec i s = .next t) (hj : mayJump i = true) : t.ar = t.pc := by
  cases i with
  | nztR | nztV | jmp => cases h; rfl
  | call => obtain ⟨-, rfl⟩ := execCall_next h; rfl
  | ret => obtain ⟨a, -, rfl⟩ := execRet_next h; rfl
  | _ => cases hj

end

/-- Settles O17: an instruction is an XEC, or may jump, or falls through. -/
theorem addressRegisterFollowsProgramCounter :
    Obligations.AddressRegisterFollowsProgramCounter := by
  intro i s t h
  refine ⟨fun hx => ?_, exec_xec_pc h, fun hx hj => (exec_fallsThrough h hx hj).1⟩
  cases hj : mayJump i with
  | true => exact exec_jump_ar h hj
  | false => exact (exec_fallsThrough h hx hj).2

/-! ## The invariant -/

/-- The byte last written on a bank after the accesses of an instruction: what the latch then
holds, if the instruction writes on that bank. -/
theorem AccessesBanks.lastWrite_eq {rd wr : Option Bank} {s t : State}
    (h : AccessesBanks rd wr s t) (b : Bank) :
    lastWrite b t.trace = if wr = some b then some (t.ivl.get b) else lastWrite b s.trace := by
  have reads : lastWrite b (s.trace ++ rd.toList.map (readEvent s)) = lastWrite b s.trace := by
    cases rd with
    | none => simp
    | some c => exact lastWrite_append_read ..
  rw [h.1, ← List.append_assoc]
  cases wr with
  | none => simpa using reads
  | some c =>
    rw [Option.toList_some, List.map_singleton, writeEvent, lastWrite_append_write, reads]
    by_cases hc : c = b <;> simp [hc]

/-- CALL pushes below the eighth level only, so the depth stays within the stack (R32, D8). -/
theorem exec_depth {i : Instr} {s t : State} (h : exec i s = .next t)
    (hs : s.stk.length ≤ Config.stackDepth) : t.stk.length ≤ Config.stackDepth := by
  cases hi : usesStack i with
  | false => exact (exec_changesOnly h).stk hi ▸ hs
  | true =>
    cases i with
    | call =>
      obtain ⟨hlt, rfl⟩ := execCall_next h
      simpa using hlt
    | ret =>
      obtain ⟨a, -, rfl⟩ := execRet_next h
      simp only [State.jumpTo_stk, State.popStk_stk, List.length_dropLast]
      omega
    | _ => cases hi

theorem exec_keepsInv {i : Instr} {s t : State} (hs : s.Inv) (h : exec i s = .next t) : t.Inv where
  progWf := (exec_changesOnly h).prog ▸ hs.progWf
  depth := exec_depth h hs.depth
  latch b v hv := by
    rw [(exec_accessesBanks h).lastWrite_eq b] at hv
    split at hv
    · exact Option.some.inj hv
    · next hb => exact ((exec_changesOnly h).ivl b hb).trans (hs.latch b v hv)

/-- The levels of the Miss inputs are no part of the invariant. -/
theorem State.passMiss_inv {s : State} (hs : s.Inv) : s.passMiss.Inv :=
  ⟨hs.progWf, hs.depth, hs.latch⟩

/-- Settles O3: a step waits, or runs an instruction, which keeps the invariant. -/
theorem stepKeepsTheInvariant : Obligations.StepKeepsTheInvariant := by
  intro s t hs h
  obtain rfl | ⟨i, -, hi⟩ := step_next h
  · exact State.passMiss_inv hs
  · exact exec_keepsInv (State.passMiss_inv hs) hi

/-- Settles O2: nothing is loaded, stacked or written at reset. -/
theorem resetMeetsTheInvariant : Obligations.ResetMeetsTheInvariant where
  progWf := State.reset_prog_wf
  depth := Nat.zero_le _
  latch _ _ h := nomatch h

/-- Settles O1, by the reset state's literal fields. -/
theorem resetStartsAtZeroWithEmptyStackAndTrace :
    Obligations.ResetStartsAtZeroWithEmptyStackAndTrace :=
  ⟨rfl, rfl, rfl, rfl⟩

/-! ## Runs -/

theorem step_prog {s t : State} (h : step s = .next t) : t.prog = s.prog := by
  obtain rfl | ⟨i, -, hi⟩ := step_next h
  · rfl
  · exact (exec_changesOnly hi).prog

/-- Settles O4, by induction on the run. -/
theorem runsNeverChangeProgramMemory : Obligations.RunsNeverChangeProgramMemory :=
  fun _ _ _ h => RunsTo.induction (P := fun s t => t.prog = s.prog) (fun _ => rfl)
    (fun hstep ih => ih.trans (step_prog hstep)) h

theorem AccessesBanks.trace_extends {rd wr : Option Bank} {s t : State}
    (h : AccessesBanks rd wr s t) : ∃ es, t.trace = s.trace ++ es ∧ es.length ≤ 2 := by
  refine ⟨_, h.1, ?_⟩
  have hrd := Option.length_toList_le (o := rd)
  have hwr := Option.length_toList_le (o := wr)
  simp only [List.length_append, List.length_map]
  omega

/-- A step adds a read at most and then a write at most. -/
theorem step_trace_extends {s t : State} (h : step s = .next t) :
    ∃ es, t.trace = s.trace ++ es ∧ es.length ≤ 2 := by
  obtain rfl | ⟨i, -, hi⟩ := step_next h
  · exact ⟨[], (List.append_nil _).symm, Nat.zero_le 2⟩
  · exact (exec_accessesBanks hi).trace_extends

/-- Settles O5, by induction on the number of steps. -/
theorem runsOnlyExtendTheTrace : Obligations.RunsOnlyExtendTheTrace := by
  intro n
  induction n with
  | zero =>
    intro s t h
    obtain rfl := runsTo_zero.1 h
    exact ⟨[], (List.append_nil _).symm, Nat.zero_le _⟩
  | succ n ih =>
    intro s t h
    obtain ⟨u, hstep, hrun⟩ := runsTo_succ.1 h
    obtain ⟨es, hes, hlen⟩ := step_trace_extends hstep
    obtain ⟨fs, hfs, hlen'⟩ := ih u t hrun
    refine ⟨es ++ fs, by rw [hfs, hes, List.append_assoc], ?_⟩
    rw [List.length_append]
    omega

end Sys2Proof.Machine

/-! PROOF. The decoder and the encoder (30_encoding.md R81 to R103) undo each other. The
decoder is read one operation code at a time. -/

namespace Sys2Proof.Machine

/-! ## The decoder by operation code (R86) -/

section
variable {w : IWord}

theorem decode_data {op : DataOp} (h : fieldOp w = op.code) : decode w = decodeData op w := by
  unfold decode
  rw [h]
  cases op <;> rfl

theorem decode_xec (h : fieldOp w = 4#3) : decode w = decodeXec w := by
  unfold decode
  rw [h]
  rfl

theorem decode_nzt (h : fieldOp w = 5#3) : decode w = decodeNzt w := by
  unfold decode
  rw [h]
  rfl

theorem decode_xmit (h : fieldOp w = 6#3) : decode w = decodeXmit w := by
  unfold decode
  rw [h]
  rfl

theorem decode_jmp (h : fieldOp w = 7#3) : decode w = .ok (.jmp (fieldA w)) := by
  unfold decode
  rw [h]
  rfl

/-- Every word has one of the eight operation codes. -/
theorem fieldOp_cases (w : IWord) :
    (∃ op : DataOp, fieldOp w = op.code) ∨ fieldOp w = 4#3 ∨ fieldOp w = 5#3 ∨
      fieldOp w = 6#3 ∨ fieldOp w = 7#3 := by
  have key : ∀ c : BitVec 3, c = DataOp.move.code ∨ c = DataOp.add.code ∨ c = DataOp.and.code ∨
      c = DataOp.xor.code ∨ c = 4#3 ∨ c = 5#3 ∨ c = 6#3 ∨ c = 7#3 := by decide
  obtain h | h | h | h | h := key (fieldOp w)
  · exact .inl ⟨_, h⟩
  · exact .inl ⟨_, h⟩
  · exact .inl ⟨_, h⟩
  · exact .inl ⟨_, h⟩
  · exact .inr h

end

/-! ## Decode after encode -/

section
variable (op : DataOp) (src : SReg) (fld f : IvSel) (rl : BitVec 3) (d : GReg) (b : Bank)

theorem decode_wordRd_rr :
    decode (wordRd op.code src.num rl d.num) = .ok (formRr op src rl d) := by
  simp [decode_data (fieldOp_wordRd ..), decodeData]

theorem decode_wordRd_ra :
    decode (wordRd op.code src.num rl b.addrNum) = .ok (formRa op src rl b) := by
  simp [decode_data (fieldOp_wordRd ..), decodeData]

theorem decode_wordRd_rv :
    decode (wordRd op.code src.num rl f.num) = .ok (formRv op src rl f) := by
  simp [decode_data (fieldOp_wordRd ..), decodeData]

theorem decode_wordRd_vr :
    decode (wordRd op.code fld.num rl d.num) = .ok (formVr op fld rl d) := by
  simp [decode_data (fieldOp_wordRd ..), decodeData]

theorem decode_wordRd_vv :
    decode (wordRd op.code fld.num rl f.num) = .ok (formVv op fld rl f) := by
  simp [decode_data (fieldOp_wordRd ..), decodeData]

theorem decode_wordRd_va :
    decode (wordRd op.code fld.num rl b.addrNum) = .ok (formVa op fld rl b) := by
  simp [decode_data (fieldOp_wordRd ..), decodeData]

/-- The register move that is not the explicit NOP (R96). -/
theorem formRr_move_of_not_nop {src : SReg} {rl : BitVec 3} {d : GReg}
    (h : isExplicitNop src rl d = false) : formRr .move src rl d = .moveRr src rl d :=
  if_neg (Bool.eq_false_iff.1 h)

end

/-- Settles O6, by the form of the instruction. -/
theorem decodeOfEncodeIsTheInstruction : Obligations.DecodeOfEncodeIsTheInstruction := by
  intro i hwf
  cases i with
  | moveRr src rl d =>
    have hnop : isExplicitNop src rl d = false := by simpa [Instr.wellFormed] using hwf
    exact (decode_wordRd_rr .move src rl d).trans
      (congrArg Except.ok (formRr_move_of_not_nop hnop))
  | addRr src rl d => exact decode_wordRd_rr .add src rl d
  | andRr src rl d => exact decode_wordRd_rr .and src rl d
  | xorRr src rl d => exact decode_wordRd_rr .xor src rl d
  | moveRa src rl b => exact decode_wordRd_ra .move src rl b
  | addRa src rl b => exact decode_wordRd_ra .add src rl b
  | andRa src rl b => exact decode_wordRd_ra .and src rl b
  | xorRa src rl b => exact decode_wordRd_ra .xor src rl b
  | moveRv src rl f => exact decode_wordRd_rv .move src f rl
  | addRv src rl f => exact decode_wordRd_rv .add src f rl
  | andRv src rl f => exact decode_wordRd_rv .and src f rl
  | xorRv src rl f => exact decode_wordRd_rv .xor src f rl
  | moveVr fld rl d => exact decode_wordRd_vr .move fld rl d
  | addVr fld rl d => exact decode_wordRd_vr .add fld rl d
  | andVr fld rl d => exact decode_wordRd_vr .and fld rl d
  | xorVr fld rl d => exact decode_wordRd_vr .xor fld rl d
  | moveVv fld rl f => exact decode_wordRd_vv .move fld f rl
  | addVv fld rl f => exact decode_wordRd_vv .add fld f rl
  | andVv fld rl f => exact decode_wordRd_vv .and fld f rl
  | xorVv fld rl f => exact decode_wordRd_vv .xor fld f rl
  | moveVa fld rl b => exact decode_wordRd_va .move fld rl b
  | addVa fld rl b => exact decode_wordRd_va .add fld rl b
  | andVa fld rl b => exact decode_wordRd_va .and fld rl b
  | xorVa fld rl b => exact decode_wordRd_va .xor fld rl b
  | nop | ret => rfl
  | xecR src imm => simp [encode, decode_xec (fieldOp_wordI8 ..), decodeXec]
  | xecV src len imm =>
    have hlen : xecLengthOk len = true := hwf
    simp [encode, wordLi5_eq_wordRd, decode_xec (fieldOp_wordRd ..), decodeXec, hlen]
  | nztR src imm => simp [encode, decode_nzt (fieldOp_wordI8 ..), decodeNzt]
  | nztV src len imm =>
    simp [encode, wordLi5_eq_wordRd, decode_nzt (fieldOp_wordRd ..), decodeNzt]
  | call imm =>
    have hsel : classS 7#5 = .iva .left := classS_iva .left
    simp [encode, decode_nzt (fieldOp_wordI8 ..), decodeNzt, hsel]
  | xmitR d imm => simp [encode, decode_xmit (fieldOp_wordI8 ..), decodeXmit]
  | xmitA b imm => simp [encode, decode_xmit (fieldOp_wordI8 ..), decodeXmit]
  | xmitV f len imm =>
    simp [encode, wordLi5_eq_wordRd, decode_xmit (fieldOp_wordRd ..), decodeXmit]
  | jmp a => simp [encode, decode_jmp (fieldOp_wordA ..)]

/-! ## Encode after decode -/

/-- The instruction `i` stands for the word `w` and has no other (R92, R102). -/
def StandsFor (i : Instr) (w : IWord) : Prop := encode i = w ∧ i.wellFormed = true

theorem isExplicitNop_iff {src : SReg} {rl : BitVec 3} {d : GReg} :
    isExplicitNop src rl d = true ↔ src = .gpr .aux ∧ rl = 0#3 ∧ d = .aux := by
  simp [isExplicitNop, and_assoc]

section
variable {op : DataOp} {src : SReg} {fld f : IvSel} {rl : BitVec 3} {d : GReg} {b : Bank}
  {w : IWord}

theorem formRr_standsFor (hw : wordRd op.code src.num rl d.num = w) :
    StandsFor (formRr op src rl d) w := by
  subst hw
  cases op with
  | move =>
    cases h : isExplicitNop src rl d with
    | true =>
      obtain ⟨rfl, rfl, rfl⟩ := isExplicitNop_iff.1 h
      exact ⟨rfl, rfl⟩
    | false =>
      rw [formRr_move_of_not_nop h]
      exact ⟨rfl, by simp [Instr.wellFormed, h]⟩
  | add | and | xor => exact ⟨rfl, rfl⟩

theorem formRa_standsFor (hw : wordRd op.code src.num rl b.addrNum = w) :
    StandsFor (formRa op src rl b) w := by
  cases op <;> exact ⟨hw, rfl⟩

theorem formRv_standsFor (hw : wordRd op.code src.num rl f.num = w) :
    StandsFor (formRv op src rl f) w := by
  cases op <;> exact ⟨hw, rfl⟩

theorem formVr_standsFor (hw : wordRd op.code fld.num rl d.num = w) :
    StandsFor (formVr op fld rl d) w := by
  cases op <;> exact ⟨hw, rfl⟩

theorem formVv_standsFor (hw : wordRd op.code fld.num rl f.num = w) :
    StandsFor (formVv op fld rl f) w := by
  cases op <;> exact ⟨hw, rfl⟩

theorem formVa_standsFor (hw : wordRd op.code fld.num rl b.addrNum = w) :
    StandsFor (formVa op fld rl b) w := by
  cases op <;> exact ⟨hw, rfl⟩

end

section
variable {w : IWord} {i : Instr}

/-- A word is put together from its operation code and its selectors (R82). -/
theorem wordRd_of_fields {op : BitVec 3} {sel d : BitVec 5} (hop : fieldOp w = op)
    (hs : sel = fieldS w) (hd : d = fieldD w) : wordRd op sel (fieldRL w) d = w := by
  rw [← hop, hs, hd, wordRd_fields]

theorem wordI8_of_fields {op : BitVec 3} {sel : BitVec 5} (hop : fieldOp w = op)
    (hs : sel = fieldS w) : wordI8 op sel (fieldI8 w) = w := by
  rw [← hop, hs, wordI8_fields]

theorem wordLi5_of_fields {op : BitVec 3} {sel : BitVec 5} (hop : fieldOp w = op)
    (hs : sel = fieldS w) : wordLi5 op sel (fieldRL w) (fieldI5 w) = w :=
  wordRd_of_fields hop hs rfl

theorem decodeData_ok {op : DataOp} (hop : fieldOp w = op.code) (h : decodeData op w = .ok i) :
    StandsFor i w := by
  unfold decodeData at h
  split at h <;> cases h
  · next src dst hs hd =>
    exact formRr_standsFor (wordRd_of_fields hop (num_of_classS_reg hs) (num_of_classD_reg hd))
  · next src dst hs hd =>
    exact formRa_standsFor (wordRd_of_fields hop (num_of_classS_reg hs) (num_of_classD_iva hd))
  · next src dst hs hd =>
    exact formRv_standsFor (wordRd_of_fields hop (num_of_classS_reg hs) (num_of_classD_iv hd))
  · next src dst hs hd =>
    exact formVr_standsFor (wordRd_of_fields hop (num_of_classS_iv hs) (num_of_classD_reg hd))
  · next src dst hs hd =>
    exact formVv_standsFor (wordRd_of_fields hop (num_of_classS_iv hs) (num_of_classD_iv hd))
  · next src dst hs hd =>
    exact formVa_standsFor (wordRd_of_fields hop (num_of_classS_iv hs) (num_of_classD_iva hd))

theorem decodeXec_ok (hop : fieldOp w = 4#3) (h : decodeXec w = .ok i) : StandsFor i w := by
  unfold decodeXec at h
  split at h
  · next src hs =>
    cases h
    exact ⟨wordI8_of_fields hop (num_of_classS_reg hs), rfl⟩
  · next src hs =>
    split at h <;> cases h
    next hlen => exact ⟨wordLi5_of_fields hop (num_of_classS_iv hs), hlen⟩
  · cases h
  · cases h

theorem decodeNzt_ok (hop : fieldOp w = 5#3) (h : decodeNzt w = .ok i) : StandsFor i w := by
  unfold decodeNzt at h
  split at h
  · next src hs =>
    cases h
    exact ⟨wordI8_of_fields hop (num_of_classS_reg hs), rfl⟩
  · next src hs =>
    cases h
    exact ⟨wordLi5_of_fields hop (num_of_classS_iv hs), rfl⟩
  · next hs =>
    cases h
    exact ⟨wordI8_of_fields hop (num_of_classS_iva hs), rfl⟩
  · next hs =>
    split at h <;> cases h
    next himm => exact ⟨(congrArg (wordI8 5#3 15#5) himm.symm).trans
      (wordI8_of_fields hop (num_of_classS_iva hs)), rfl⟩
  · cases h

theorem decodeXmit_ok (hop : fieldOp w = 6#3) (h : decodeXmit w = .ok i) : StandsFor i w := by
  unfold decodeXmit at h
  split at h
  · next dst hd =>
    cases h
    exact ⟨wordI8_of_fields hop (num_of_classD_reg hd), rfl⟩
  · next dst hd =>
    cases h
    exact ⟨wordI8_of_fields hop (num_of_classD_iva hd), rfl⟩
  · next dst hd =>
    cases h
    exact ⟨wordLi5_of_fields hop (num_of_classD_iv hd), rfl⟩
  · cases h

theorem decodeJmp_ok (hop : fieldOp w = 7#3) : StandsFor (.jmp (fieldA w)) w :=
  ⟨(congrArg (wordA · (fieldA w)) hop.symm).trans (wordA_fields w), rfl⟩

end

/-- Settles O7, by the operation code of the word. -/
theorem encodeOfDecodeIsTheWord : Obligations.EncodeOfDecodeIsTheWord := by
  intro w i h
  obtain ⟨op, hop⟩ | hop | hop | hop | hop := fieldOp_cases w
  · exact decodeData_ok hop (decode_data hop ▸ h)
  · exact decodeXec_ok hop (decode_xec hop ▸ h)
  · exact decodeNzt_ok hop (decode_nzt hop ▸ h)
  · exact decodeXmit_ok hop (decode_xmit hop ▸ h)
  · rw [decode_jmp hop] at h
    cases h
    exact decodeJmp_ok hop

end Sys2Proof.Machine

/-! PROOF. The reserved words (30_encoding.md R92): the fields of a word and the classes of its
selectors as numbers, then each refusal of the decoder, in both directions. -/

namespace Sys2Proof.Machine

/-! ## Fields and selectors as numbers (R81, R87, R88) -/

section
variable (w : IWord)

theorem fieldOp_toNat : (fieldOp w).toNat = w.toNat / 8192 := by
  unfold fieldOp
  rw [extract_toNat]
  omega

theorem fieldS_toNat : (fieldS w).toNat = w.toNat / 256 % 32 := extract_toNat ..

theorem fieldRL_toNat : (fieldRL w).toNat = w.toNat / 32 % 8 := extract_toNat ..

theorem fieldD_toNat : (fieldD w).toNat = w.toNat % 32 := by
  unfold fieldD
  rw [extract_toNat]
  omega

theorem fieldI8_toNat : (fieldI8 w).toNat = w.toNat % 256 := by
  unfold fieldI8
  rw [extract_toNat]
  omega

end

section
variable {f : BitVec 5}

theorem isAddrSel_iff : isAddrSel f.toNat ↔ ∃ b, classS f = .iva b := by
  constructor
  · rintro (h | h)
    · exact ⟨.left, BitVec.eq_of_toNat_eq (y := 7#5) h ▸ rfl⟩
    · exact ⟨.right, BitVec.eq_of_toNat_eq (y := 15#5) h ▸ rfl⟩
  · rintro ⟨b, h⟩
    rw [← num_of_classS_iva h]
    cases b
    · exact .inl rfl
    · exact .inr rfl

theorem isEmptySel_iff : isEmptySel f.toNat ↔ classS f = .noReg := by
  unfold isEmptySel
  revert f
  decide

theorem noDest_iff : (f.toNat = 8 ∨ isEmptySel f.toNat) ↔ classD f = .noReg := by
  unfold isEmptySel
  revert f
  decide

theorem sixteen_le_iff : 16 ≤ f.toNat ↔ ∃ v, classS f = .iv v := by
  constructor
  · intro h
    have key : ∀ g : BitVec 5, 16 ≤ g.toNat →
        (match classS g with | .iv _ => true | _ => false) = true := by decide
    have hk := key f h
    split at hk
    · next v hv => exact ⟨v, hv⟩
    · cases hk
  · rintro ⟨⟨b, k⟩, h⟩
    rw [← num_of_classS_iv h, ivNum_toNat]
    dsimp only
    split <;> omega

end

/-! ## The words of each class, in the terms of the decoder -/

section
variable {w : IWord}

theorem opCode_eq_iff {c : BitVec 3} : w.toNat / 8192 = c.toNat ↔ fieldOp w = c := by
  rw [← fieldOp_toNat, BitVec.toNat_inj]

theorem opCode_le_three_iff : w.toNat / 8192 ≤ 3 ↔ ∃ op : DataOp, fieldOp w = op.code := by
  rw [← fieldOp_toNat]
  constructor
  · intro h
    obtain hop | hop | hop | hop | hop := fieldOp_cases w
    · exact hop
    all_goals
      rw [hop] at h
      exact absurd h (by decide)
  · rintro ⟨op, hop⟩
    rw [hop]
    cases op <;> decide

theorem addrSel_source_iff :
    isAddrSel (w.toNat / 256 % 32) ↔ ∃ b, classS (fieldS w) = .iva b := by
  rw [← fieldS_toNat, isAddrSel_iff]

theorem emptySel_source_iff :
    isEmptySel (w.toNat / 256 % 32) ↔ classS (fieldS w) = .noReg := by
  rw [← fieldS_toNat, isEmptySel_iff]

theorem fieldSel_source_iff :
    16 ≤ w.toNat / 256 % 32 ↔ ∃ v, classS (fieldS w) = .iv v := by
  rw [← fieldS_toNat, sixteen_le_iff]

theorem noDest_low_iff :
    (w.toNat % 32 = 8 ∨ isEmptySel (w.toNat % 32)) ↔ classD (fieldD w) = .noReg := by
  rw [← fieldD_toNat, noDest_iff]

theorem noDest_source_iff :
    (w.toNat / 256 % 32 = 8 ∨ isEmptySel (w.toNat / 256 % 32)) ↔ classD (fieldS w) = .noReg := by
  rw [← fieldS_toNat, noDest_iff]

/-- The lengths that XEC.v does not admit (R191, R92 V5). -/
theorem xecLength_reserved_iff :
    (w.toNat / 32 % 8 = 0 ∨ w.toNat / 32 % 8 = 6 ∨ w.toNat / 32 % 8 = 7) ↔
      xecLengthOk (fieldRL w) = false := by
  rw [← fieldRL_toNat]
  generalize fieldRL w = l
  revert l
  decide

theorem rightAddrSel_source_iff :
    w.toNat / 256 % 32 = 15 ↔ classS (fieldS w) = .iva .right := by
  rw [← fieldS_toNat]
  generalize fieldS w = f
  revert f
  decide

theorem lowByte_ne_zero_iff : w.toNat % 256 ≠ 0 ↔ fieldI8 w ≠ 0#8 := by
  rw [← fieldI8_toNat]
  exact not_congr (BitVec.toNat_inj (y := 0#8))

/-! ## A refused word lies in its class -/

variable {r : Reserved}

theorem decodeData_error {op : DataOp} (hop : fieldOp w = op.code)
    (h : decodeData op w = .error r) : ReservedClass w r := by
  have hcode := opCode_le_three_iff.2 ⟨op, hop⟩
  unfold decodeData at h
  split at h <;> cases h
  · next b hs => exact ⟨hcode, addrSel_source_iff.2 ⟨b, hs⟩⟩
  · next hs => exact ⟨hcode, emptySel_source_iff.2 hs⟩
  · next hd hiva hnone =>
    exact ⟨hcode, fun ha => (addrSel_source_iff.1 ha).elim hiva,
      fun he => hnone (emptySel_source_iff.1 he), noDest_low_iff.2 hd⟩

theorem decodeXec_error (hop : fieldOp w = 4#3) (h : decodeXec w = .error r) :
    ReservedClass w r := by
  have hcode := opCode_eq_iff.2 hop
  unfold decodeXec at h
  split at h
  · cases h
  · next f hs =>
    split at h <;> cases h
    next hlen =>
    exact ⟨hcode, fieldSel_source_iff.2 ⟨f, hs⟩,
      xecLength_reserved_iff.2 (Bool.eq_false_iff.2 hlen)⟩
  · next b hs =>
    cases h
    exact ⟨hcode, .inl (addrSel_source_iff.2 ⟨b, hs⟩)⟩
  · next hs =>
    cases h
    exact ⟨hcode, .inr (emptySel_source_iff.2 hs)⟩

theorem decodeNzt_error (hop : fieldOp w = 5#3) (h : decodeNzt w = .error r) :
    ReservedClass w r := by
  have hcode := opCode_eq_iff.2 hop
  unfold decodeNzt at h
  split at h
  · cases h
  · cases h
  · cases h
  · next hs =>
    split at h <;> cases h
    next himm => exact ⟨hcode, rightAddrSel_source_iff.2 hs, lowByte_ne_zero_iff.2 himm⟩
  · next hs =>
    cases h
    exact ⟨hcode, emptySel_source_iff.2 hs⟩

theorem decodeXmit_error (hop : fieldOp w = 6#3) (h : decodeXmit w = .error r) :
    ReservedClass w r := by
  unfold decodeXmit at h
  split at h <;> cases h
  next hd => exact ⟨opCode_eq_iff.2 hop, noDest_source_iff.2 hd⟩

theorem reservedClass_of_decode_error (h : decode w = .error r) : ReservedClass w r := by
  obtain ⟨op, hop⟩ | hop | hop | hop | hop := fieldOp_cases w
  · exact decodeData_error hop (decode_data hop ▸ h)
  · exact decodeXec_error hop (decode_xec hop ▸ h)
  · exact decodeNzt_error hop (decode_nzt hop ▸ h)
  · exact decodeXmit_error hop (decode_xmit hop ▸ h)
  · rw [decode_jmp hop] at h
    cases h

/-! ## A word of a class is refused -/

theorem decode_error_of_reservedClass (h : ReservedClass w r) : decode w = .error r := by
  cases r with
  | v1 =>
    obtain ⟨hcode, hsel⟩ := h
    obtain ⟨op, hop⟩ := opCode_le_three_iff.1 hcode
    obtain ⟨b, hs⟩ := addrSel_source_iff.1 hsel
    simp [decode_data hop, decodeData, hs]
  | v2 =>
    obtain ⟨hcode, hsel⟩ := h
    obtain ⟨op, hop⟩ := opCode_le_three_iff.1 hcode
    simp [decode_data hop, decodeData, emptySel_source_iff.1 hsel]
  | v3 =>
    obtain ⟨hcode, haddr, hempty, hdst⟩ := h
    obtain ⟨op, hop⟩ := opCode_le_three_iff.1 hcode
    rw [addrSel_source_iff] at haddr
    rw [emptySel_source_iff] at hempty
    rw [decode_data hop, decodeData, noDest_low_iff.1 hdst]
    cases hs : classS (fieldS w) with
    | reg | iv => rfl
    | iva b => exact absurd ⟨b, hs⟩ haddr
    | noReg => exact absurd hs hempty
  | v4 =>
    obtain ⟨hcode, hsel⟩ := h
    rw [decode_xec (opCode_eq_iff.1 hcode), decodeXec]
    obtain hsel | hsel := hsel
    · obtain ⟨b, hs⟩ := addrSel_source_iff.1 hsel
      rw [hs]
    · rw [emptySel_source_iff.1 hsel]
  | v5 =>
    obtain ⟨hcode, hsel, hlen⟩ := h
    obtain ⟨f, hs⟩ := fieldSel_source_iff.1 hsel
    simp [decode_xec (opCode_eq_iff.1 hcode), decodeXec, hs, xecLength_reserved_iff.1 hlen]
  | v6 =>
    obtain ⟨hcode, hsel⟩ := h
    simp [decode_nzt (opCode_eq_iff.1 hcode), decodeNzt, emptySel_source_iff.1 hsel]
  | v7 =>
    obtain ⟨hcode, hsel, himm⟩ := h
    simp [decode_nzt (opCode_eq_iff.1 hcode), decodeNzt, rightAddrSel_source_iff.1 hsel,
      lowByte_ne_zero_iff.1 himm]
  | v8 =>
    obtain ⟨hcode, hdst⟩ := h
    simp [decode_xmit (opCode_eq_iff.1 hcode), decodeXmit, noDest_source_iff.1 hdst]

end

/-- Settles O8: the decoder's refusals one by one, and the classes one by one. -/
theorem reservedWordsAreTheClassesV1ToV8 : Obligations.ReservedWordsAreTheClassesV1ToV8 :=
  fun _ _ => ⟨reservedClass_of_decode_error, decode_error_of_reservedClass⟩

/-- Settles O9, by running the decoder on the eleven words. -/
theorem printedWordsDecode : Obligations.PrintedWordsDecode :=
  ⟨rfl, rfl, rfl, rfl, rfl, rfl, rfl, rfl, rfl, rfl, rfl⟩

end Sys2Proof.Machine

/-! PROOF. What an instruction does not depend on (10_state.md R27, R34, R35; 20_memory.md R62): the
flag but through register octal 10, the address registers without an I/O access, the latches
without a field write, the coming Miss levels ever. Each is an equation between the meaning of an
instruction in the changed state and its meaning in the state itself. -/

namespace Sys2Proof.Machine

/-- An answer with its next state changed by `g`; a stop stays as it is. -/
def Out.onNext (g : State → State) : Out → Out
  | .next t => .next (g t)
  | .fault f => .fault f
  | .refused r => .refused r

/-- What such an equation says of the next state and of the fault. -/
theorem Out.onNext_spec {g : State → State} {x y : Out} (h : y = Out.onNext g x) :
    (∀ t, x = .next t → y = .next (g t)) ∧ (∀ f, x = .fault f → y = .fault f) := by
  subst h
  constructor <;> rintro _ rfl <;> rfl

/-! ## CALL and RET, whose answer depends on the stack alone -/

section
variable {g : State → State} {s s' : State}

theorem execCall_onNext {imm : BitVec 8} (hstk : s'.stk = s.stk)
    (hg : (s'.pushStk (s'.pc + 1#16)).jumpTo (callTarget s'.regs.aux imm) =
      g ((s.pushStk (s.pc + 1#16)).jumpTo (callTarget s.regs.aux imm))) :
    execCall imm s' = Out.onNext g (execCall imm s) := by
  unfold execCall
  rw [hstk]
  split
  · exact congrArg Host.Outcome.next hg
  · rfl

theorem execRet_onNext (hstk : s'.stk = s.stk)
    (hg : ∀ a, s'.popStk.jumpTo a = g (s.popStk.jumpTo a)) :
    execRet s' = Out.onNext g (execRet s) := by
  unfold execRet
  rw [hstk]
  cases s.stk.getLast? with
  | some a => exact congrArg Host.Outcome.next (hg a)
  | none => rfl

end

/-! ## The flag (R27) -/

section
variable {op : DataOp} {src : SReg} {s : State} {o : Bool}

theorem readSrc_setOvf (h : src ≠ .ovf) : (s.setOvf o).readSrc src = s.readSrc src := by
  cases src with
  | gpr r => rfl
  | ovf => exact absurd rfl h

theorem rotatedSrc_setOvf {rot : BitVec 3} (h : src ≠ .ovf) :
    (s.setOvf o).rotatedSrc src rot = s.rotatedSrc src rot :=
  congrArg (rotr8 · rot.toNat) (readSrc_setOvf h)

/-- The state with the flag `o`, where the operation has not written the flag itself. -/
def keepFlagUnless (sets : Bool) (o : Bool) (t : State) : State := if sets then t else t.setOvf o

theorem dataRr_setOvf {rot : BitVec 3} {d : GReg} (h : src ≠ .ovf) :
    dataRr op src rot d (s.setOvf o) =
      Out.onNext (keepFlagUnless (setsFlag op) o) (dataRr op src rot d s) := by
  unfold dataRr
  rw [rotatedSrc_setOvf h]
  cases op <;> rfl

theorem dataRa_setOvf {rot : BitVec 3} {b : Bank} (h : src ≠ .ovf) :
    dataRa op src rot b (s.setOvf o) =
      Out.onNext (keepFlagUnless (setsFlag op) o) (dataRa op src rot b s) := by
  unfold dataRa
  rw [rotatedSrc_setOvf h]
  cases op <;> rfl

theorem dataRv_setOvf {len : BitVec 3} {f : IvSel} (h : src ≠ .ovf) :
    dataRv op src len f (s.setOvf o) =
      Out.onNext (keepFlagUnless (setsFlag op) o) (dataRv op src len f s) := by
  unfold dataRv
  rw [readSrc_setOvf h]
  cases op <;> rfl

/-- A bank source is no register: the flag only passes through. -/
theorem dataVr_setOvf {fld : IvSel} {len : BitVec 3} {d : GReg} :
    dataVr op fld len d (s.setOvf o) =
      Out.onNext (keepFlagUnless (setsFlag op) o) (dataVr op fld len d s) := by
  cases op <;> rfl

theorem dataVv_setOvf {fld f : IvSel} {len : BitVec 3} :
    dataVv op fld len f (s.setOvf o) =
      Out.onNext (keepFlagUnless (setsFlag op) o) (dataVv op fld len f s) := by
  cases op <;> rfl

theorem dataVa_setOvf {fld : IvSel} {len : BitVec 3} {b : Bank} :
    dataVa op fld len b (s.setOvf o) =
      Out.onNext (keepFlagUnless (setsFlag op) o) (dataVa op fld len b s) := by
  cases op <;> rfl

end

theorem exec_setOvf {i : Instr} {s : State} {o : Bool} (h : regSource i ≠ some .ovf) :
    exec i (s.setOvf o) = Out.onNext (keepFlagUnless (isAdd i) o) (exec i s) := by
  have hsrc {src : SReg} (hi : regSource i = some src) : src ≠ .ovf := fun hc => h (hc ▸ hi)
  cases i with
  | moveRr | addRr | andRr | xorRr => exact dataRr_setOvf (hsrc rfl)
  | moveRa | addRa | andRa | xorRa => exact dataRa_setOvf (hsrc rfl)
  | moveRv | addRv | andRv | xorRv => exact dataRv_setOvf (hsrc rfl)
  | moveVr | addVr | andVr | xorVr => exact dataVr_setOvf
  | moveVv | addVv | andVv | xorVv => exact dataVv_setOvf
  | moveVa | addVa | andVa | xorVa => exact dataVa_setOvf
  | xecR src imm | nztR src imm =>
    show Host.Outcome.next _ = Host.Outcome.next _
    rw [readSrc_setOvf (hsrc rfl)]
    rfl
  | call => exact execCall_onNext rfl rfl
  | ret => exact execRet_onNext rfl fun _ => rfl
  | nop | xecV | nztV | xmitR | xmitA | xmitV | jmp => rfl

/-- Settles O18, by `exec_setOvf`. -/
theorem overflowIsReadOnlyThroughRegisterTen :
    Obligations.OverflowIsReadOnlyThroughRegisterTen := by
  intro i s o h
  exact Out.onNext_spec (exec_setOvf h)

/-! ## The address registers (R34) -/

/-- The state with the address registers `p`, but the one in `dest` as it is. -/
def withIvaBut (dest : Option Bank) (p : PerBank) (t : State) : State :=
  { t with iva := dest.elim p fun b => p.set b (t.iva.get b) }

/-- The destination takes the same byte whatever address registers it is written among. -/
theorem withIvaBut_setIva (s : State) (b : Bank) (v : Byte) (p : PerBank) :
    withIvaBut (some b) p (s.setIva b v).advance =
      (({ s with iva := p }).setIva b v).advance := by
  simp [withIvaBut, State.setIva, State.advance]

theorem dataRa_withIva {op : DataOp} {src : SReg} {rot : BitVec 3} {b : Bank} {s : State}
    {p : PerBank} : dataRa op src rot b { s with iva := p } =
      Out.onNext (withIvaBut (some b) p) (dataRa op src rot b s) :=
  congrArg Host.Outcome.next (withIvaBut_setIva (s.flagged op (s.rotatedSrc src rot)) b
    (s.aluRes op (s.rotatedSrc src rot)) p).symm

theorem exec_withIva {i : Instr} {s : State} {p : PerBank} (h : usesIoBus i = false) :
    exec i { s with iva := p } = Out.onNext (withIvaBut (destIva i) p) (exec i s) := by
  cases i with
  | moveRa | addRa | andRa | xorRa => exact dataRa_withIva
  | xmitA b imm => exact congrArg Host.Outcome.next (withIvaBut_setIva s b imm p).symm
  | call => exact execCall_onNext rfl rfl
  | ret => exact execRet_onNext rfl fun _ => rfl
  | moveRr | addRr | andRr | xorRr | nop | xecR | nztR | xmitR | jmp => rfl
  | _ => cases h

/-- Settles O19, by `exec_withIva`. -/
theorem addressRegistersAreWriteOnly : Obligations.AddressRegistersAreWriteOnly := by
  intro i s p h
  exact Out.onNext_spec (exec_withIva h)

/-! ## The latches (R35) -/

theorem exec_withIvl {i : Instr} {s : State} {p : PerBank} (h : ioWriteBank i = none) :
    exec i { s with ivl := p } = Out.onNext (fun t => { t with ivl := p }) (exec i s) := by
  cases i with
  | moveRv | addRv | andRv | xorRv | moveVv | addVv | andVv | xorVv | xmitV => cases h
  | call => exact execCall_onNext rfl rfl
  | ret => exact execRet_onNext rfl fun _ => rfl
  | _ => rfl

/-- Settles O20, by `exec_withIvl`. -/
theorem latchesReachOnlyMerges : Obligations.LatchesReachOnlyMerges := by
  intro i s p h
  exact Out.onNext_spec (exec_withIvl h)

/-! ## The coming Miss levels (R62) -/

theorem exec_withMiss (i : Instr) (s : State) (ms : List MissLevels) :
    exec i { s with miss := ms } = Out.onNext (fun t => { t with miss := ms }) (exec i s) := by
  cases i with
  | call => exact execCall_onNext rfl rfl
  | ret => exact execRet_onNext rfl fun _ => rfl
  | _ => rfl

end Sys2Proof.Machine

/-! PROOF. The step around the meanings (20_memory.md R62, 40_datapath.md R133, 60_exceptions.md
R233): which instruction runs, which words stop it, and how the Miss inputs delay it. -/

namespace Sys2Proof.Machine

section
variable {s t : State} {i : Instr}

/-- With no Miss level listed a step is the meaning of the fetched instruction, in that state. -/
theorem step_eq_exec (hm : s.miss = []) (hi : s.fetchInstr = .ok i) : step s = exec i s := by
  have hp : s.pMissNow = false := by simp [State.pMissNow, hm]
  have hd : s.dMissNow = false := by simp [State.dMissNow, hm]
  rw [step_of_fetch hp hi (by simp [hd]), State.passMiss_of_nil s hm]

/-- The fetch or the decode stops the step (R231, R233). -/
theorem step_of_fetch_error {f : Fault} (hp : s.pMissNow = false) (hf : s.fetchInstr = .error f) :
    step s = .fault f := by
  simp [step, stepWith, hp, hf]

theorem fetchInstr_of_unlisted (h : s.progRead s.ar = none) :
    s.fetchInstr = .error (.fetchOutsideProgram s.ar) := by
  simp [State.fetchInstr, h]

theorem fetchInstr_of_reserved {w : IWord} {r : Reserved} (h : s.progRead s.ar = some w)
    (hw : decode w = .error r) : s.fetchInstr = .error (.reservedEncoding w) := by
  simp [State.fetchInstr, h, hw]

end

/-- Settles O10: the fetch finds the instruction, and no level holds it back. -/
theorem stepRunsTheDecodedInstruction : Obligations.StepRunsTheDecodedInstruction := by
  intro s w i hw hi hp hd
  have hfetch : s.fetchInstr = .ok i := State.fetchInstr_ok.2 ⟨w, hw, hi⟩
  refine ⟨step_of_fetch hp hfetch ?_, fun hm => step_eq_exec hm hfetch⟩
  cases hio : usesIoBus i with
  | true => simp [hd hio]
  | false => simp

/-- Settles O11: the two stops of the fetch. -/
theorem unfetchableAndReservedWordsStop : Obligations.UnfetchableAndReservedWordsStop :=
  fun _ hp => ⟨fun hnone => step_of_fetch_error hp (fetchInstr_of_unlisted hnone),
    fun _ _ hw hr => step_of_fetch_error hp (fetchInstr_of_reserved hw hr)⟩

/-! ## The loader (R51) -/

/-- A word of the table's width is decoded as it stands. -/
theorem decode_of_decodeTableWord {n w : Nat} {i : Instr} (h : decodeTableWord n w = some i) :
    decode (BitVec.ofNat 16 (w % 2 ^ n)) = .ok i := by
  unfold decodeTableWord at h
  split at h <;> cases h
  assumption

/-- The placed word is the one `ar` addresses. -/
theorem progRead_placeWord (s : State) (w : IWord) :
    (s.placeWord w).progRead (s.placeWord w).ar = some w :=
  Memory.read_write_same s.prog s.ar.toNat w

/-- Settles O14: the placed word is fetched, and no Miss level is left. -/
theorem loadedWordRunsNext : Obligations.LoadedWordRunsNext := fun s _ _ _ h =>
  step_eq_exec rfl (State.fetchInstr_ok.2 ⟨_, progRead_placeWord s _, decode_of_decodeTableWord h⟩)

/-! ## The Miss inputs (R62) -/

/-- The levels `m` hold back the instruction fetched in `s`. -/
def HoldsBack (m : MissLevels) (s : State) : Prop :=
  m.pMiss = true ∨ (m.dMiss = true ∧ ∃ i, s.fetchInstr = .ok i ∧ usesIoBus i = true)

/-- The fetch does not look at the Miss levels. -/
theorem fetchInstr_withMiss (s : State) (ms : List MissLevels) :
    ({ s with miss := ms }).fetchInstr = s.fetchInstr := rfl

section
variable {s t : State} {i : Instr} {m : MissLevels} {ms : List MissLevels}

theorem step_of_holdsBack (h : HoldsBack m s) :
    step { s with miss := m :: ms } = .next { s with miss := ms } := by
  cases hp : m.pMiss with
  | true => simp [step, stepWith, State.pMissNow, State.passMiss, hp]
  | false =>
    obtain hp' | ⟨hd, i, hi, hio⟩ := h
    · exact absurd hp' (Bool.eq_false_iff.1 hp)
    · simp [step, stepWith, State.pMissNow, State.dMissNow, State.passMiss, fetchInstr_withMiss,
        hp, hd, hi, hio]

theorem runsTo_of_holdsBack {rest : List MissLevels} (h : ∀ m ∈ ms, HoldsBack m s) :
    RunsTo ms.length { s with miss := ms ++ rest } { s with miss := rest } := by
  induction ms with
  | nil => exact runsTo_zero.2 rfl
  | cons m ms ih =>
    exact runsTo_succ.2 ⟨_, step_of_holdsBack (h m List.mem_cons_self),
      ih fun m' hm' => h m' (List.mem_cons_of_mem m hm')⟩

/-- With no Miss level listed, a step that completes has fetched an instruction and run it. -/
theorem step_next_of_miss_nil (hm : s.miss = []) (h : step s = .next t) :
    ∃ i, s.fetchInstr = .ok i ∧ exec i s = .next t := by
  cases hf : s.fetchInstr with
  | error f =>
    rw [step_of_fetch_error (by simp [State.pMissNow, hm]) hf] at h
    cases h
  | ok i => exact ⟨i, rfl, step_eq_exec hm hf ▸ h⟩

/-- Levels that do not hold the instruction back change nothing of what it does. -/
theorem step_of_released (hp : m.pMiss = false) (hi : s.fetchInstr = .ok i)
    (hd : (m.dMiss && usesIoBus i) = false) (h : exec i { s with miss := [] } = .next t) :
    step { s with miss := m :: ms } = .next { t with miss := ms } :=
  calc step { s with miss := m :: ms }
    _ = exec i { s with miss := ms } := step_of_fetch hp hi hd
    _ = .next { t with miss := ms } :=
      (Out.onNext_spec (exec_withMiss i { s with miss := [] } ms)).1 t h

end

/-- Settles O12: the levels that hold back one by one, and then the released step. -/
theorem missInputsOnlyDelay : Obligations.MissInputsOnlyDelay := by
  refine ⟨fun s ms rest h => runsTo_of_holdsBack h, fun s t rest h => ?_⟩
  obtain ⟨i, hi, hexec⟩ := step_next_of_miss_nil rfl h
  exact step_of_released rfl hi rfl hexec

/-- Settles O13: `D_Miss` does not hold the instruction back. -/
theorem dataMissHoldsBackOnlyIoInstructions :
    Obligations.DataMissHoldsBackOnlyIoInstructions := by
  intro s t rest i hi hio h
  exact step_of_released rfl hi hio (step_eq_exec (s := { s with miss := [] }) rfl hi ▸ h)

end Sys2Proof.Machine

/-! PROOF. The forms that merge a field into a latch (40_datapath.md R130; 41_move.md to 44_xor.md,
47_xmit.md), and the ADD forms with a register or an address register as destination (42_add.md),
which are the shared meanings with their operation. -/

namespace Sys2Proof.Machine

section
variable (op : DataOp) (src : SReg) (fld f : IvSel) (rl : BitVec 3) (s : State)

theorem encode_rvOf : encode (rvOf op src rl f) = wordRd op.code src.num rl f.num := by
  cases op <;> rfl

theorem encode_vvOf : encode (vvOf op fld rl f) = wordRd op.code fld.num rl f.num := by
  cases op <;> rfl

theorem exec_rvOf : exec (rvOf op src rl f) s = dataRv op src rl f s := by cases op <;> rfl

theorem exec_vvOf : exec (vvOf op fld rl f) s = dataVv op fld rl f s := by cases op <;> rfl

theorem dataRv_spec : ∃ res flag new t,
    AluGives op (s.readSrc src) (s.regs.get .aux) s.ovf res flag ∧
    MergedBits (s.ivl.get f.bank) res f.bit rl new ∧
    dataRv op src rl f s = .next t ∧
    t.ivl.get f.bank = new ∧ OneWrite f.bank new s t ∧ t.ovf = flag ∧ KeepsRegs s t ∧
    KeepsIva s t ∧ KeepsIvlBut f.bank s t ∧ KeepsStk s t ∧ KeepsProg s t ∧ KeepsMiss s t ∧
    FallsThrough s t :=
  ⟨_, _, _, _, aluGives .., mergeField_bits _ _ _ _, rfl, PerBank.get_set_same .., ⟨rfl, rfl⟩, rfl,
    fun _ => rfl, fun _ => rfl, fun _ hb => PerBank.get_set_other _ _ hb, rfl, fun _ => rfl, rfl,
    rfl, rfl⟩

theorem dataVv_spec : ∃ v res flag new t,
    FieldBits (s.ioAnswer fld.bank) fld.bit rl v ∧
    AluGives op v (s.regs.get .aux) s.ovf res flag ∧
    MergedBits (s.ivl.get f.bank) res f.bit rl new ∧
    dataVv op fld rl f s = .next t ∧
    t.ivl.get f.bank = new ∧ ReadThenWrite fld.bank f.bank new s t ∧ t.ovf = flag ∧
    KeepsRegs s t ∧ KeepsIva s t ∧ KeepsIvlBut f.bank s t ∧ KeepsStk s t ∧ KeepsProg s t ∧
    KeepsMiss s t ∧ FallsThrough s t :=
  ⟨s.fieldSrc fld rl, _, _, _, _, extractField_bits _ _ _, aluGives .., mergeField_bits _ _ _ _,
    rfl, PerBank.get_set_same .., ⟨List.append_assoc .., rfl⟩, rfl, fun _ => rfl, fun _ => rfl,
    fun _ hb => PerBank.get_set_other _ _ hb, rfl, fun _ => rfl, rfl, rfl, rfl⟩

end

/-- Settles O25: the shared meaning `.rv` for each operation. -/
theorem registerToFieldForms : Obligations.RegisterToFieldForms := by
  intro op src len dst s
  rw [encode_rvOf, exec_rvOf, ← ivNum_toNat]
  exact ⟨wordRd_wordFields .., dataRv_spec ..⟩

/-- Settles O27: the shared meaning `.vv` for each operation. -/
theorem fieldToFieldForms : Obligations.FieldToFieldForms := by
  intro op src len dst s
  rw [encode_vvOf, exec_vvOf, ← ivNum_toNat, ← ivNum_toNat]
  exact ⟨wordRd_wordFields .., dataVv_spec ..⟩

/-- Settles O29: the shared meaning `.rr` for ADD. -/
theorem addRegisterToRegister : Obligations.AddRegisterToRegister :=
  fun src rot dst s => ⟨wordRd_wordFields 1#3 src.num rot dst.num, dataRr_spec .add src rot dst s⟩

/-- Settles O30: the shared meaning `.ra` for ADD. -/
theorem addRegisterToAddressRegister : Obligations.AddRegisterToAddressRegister := by
  intro src rot dst s
  rw [← addrNum_toNat]
  exact ⟨wordRd_wordFields 1#3 src.num rot dst.addrNum, dataRa_spec .add src rot dst s⟩

/-- Settles O31: the shared meaning `.vr` for ADD. -/
theorem addFieldToRegister : Obligations.AddFieldToRegister := by
  intro src len dst s
  rw [← ivNum_toNat]
  exact ⟨wordRd_wordFields 1#3 src.num len dst.num, dataVr_spec .add src len dst s⟩

/-- Settles O32: the shared meaning `.va` for ADD. -/
theorem addFieldToAddressRegister : Obligations.AddFieldToAddressRegister := by
  intro src len dst s
  rw [← ivNum_toNat, ← addrNum_toNat]
  exact ⟨wordRd_wordFields 1#3 src.num len dst.addrNum, dataVa_spec .add src len dst s⟩

theorem readSrc_of_keeps {s t : State} (hregs : KeepsRegs s t) (hovf : KeepsOvf s t) (src : SReg) :
    t.readSrc src = s.readSrc src := by
  cases src with
  | gpr r => exact hregs r
  | ovf => exact congrArg ovfByte hovf

/-- Settles O34: XMIT.a moves no data (R216), so MOVE.rv merges into the latch as it was. -/
theorem fieldWriteAfterAddressChangeUsesTheOldLatch :
    Obligations.FieldWriteAfterAddressChangeUsesTheOldLatch := by
  intro s b a src len bit
  obtain ⟨-, t, ht, hiva, -, hregs, hovf, hivl, -, -, -, hio, -⟩ :=
    xmitLoadsAnAddressRegister b a s
  obtain ⟨-, res, flag, new, u, halu, hmerge, hu, hnew, hwrite, -⟩ :=
    registerToFieldForms .move src len ⟨b, bit⟩ t
  have hres : res = s.readSrc src := halu.1.trans (readSrc_of_keeps hregs hovf src)
  refine ⟨t, u, ht, hu, ?_, ?_⟩
  · rwa [hnew, ← hres, ← hivl b]
  · rw [hwrite.1, hio.1, writeEvent, hiva, hnew]

/-- Settles O49: XMIT.v merges the zero-extended immediate, and reads nothing. -/
theorem xmitWritesAField : Obligations.XmitWritesAField := by
  intro dst len imm s
  rw [← ivNum_toNat]
  exact ⟨wordRd_wordFields 6#3 dst.num len imm, xmitByte imm, _, _, xmitByte_toNat imm,
    mergeField_bits _ _ _ _, rfl, PerBank.get_set_same .., ⟨rfl, rfl⟩, fun _ => rfl, rfl,
    fun _ => rfl, fun _ hb => PerBank.get_set_other _ _ hb, rfl, fun _ => rfl, rfl, rfl, rfl⟩

end Sys2Proof.Machine

/-! PROOF. XEC.v, NZT, CALL, RET and JMP (45_xec.md, 46_nzt_call_ret.md, 48_jmp.md), and the
registers (10_state.md): the words, the addresses, and the frames of the writes of `ar` and of `pc`. -/

namespace Sys2Proof.Machine

/-! ## Registers (R20, R25) -/

/-- Settles O21: a register read after a write to it, and after a write to another. -/
theorem generalRegistersAreSeparate : Obligations.GeneralRegistersAreSeparate := by
  intro s r q v
  split
  · next h => exact h ▸ Regs.get_set_same ..
  · next h => exact Regs.get_set_other _ _ h

/-- Settles O22, by `ovfByte_toNat`. -/
theorem registerTenReadsTheFlag : Obligations.RegisterTenReadsTheFlag := by
  intro s
  refine (ovfByte_toNat s.ovf).trans ?_
  cases s.ovf <;> rfl

/-! ## XEC.v (R191) -/

/-- A read keeps everything but the events and the coming answers. -/
theorem State.afterRead_frame (s : State) (b : Bank) :
    KeepsRegs s (s.afterRead b) ∧ KeepsOvf s (s.afterRead b) ∧ KeepsIva s (s.afterRead b) ∧
    KeepsIvl s (s.afterRead b) ∧ KeepsStk s (s.afterRead b) ∧ KeepsProg s (s.afterRead b) ∧
    KeepsMiss s (s.afterRead b) :=
  ⟨fun _ => rfl, rfl, fun _ => rfl, fun _ => rfl, rfl, fun _ => rfl, rfl⟩

theorem replaceLow5_sum5_toNat (a : Addr) (v : Byte) (imm : BitVec 5) :
    (replaceLow5 a (sum5 v imm)).toNat = a.toNat / 32 * 32 + (v.toNat + imm.toNat) % 32 := by
  rw [replaceLow5_toNat, sum5_toNat]

/-- Settles O37: XEC.v reads, and then writes `ar` with the sum in its low five bits. -/
theorem xecFieldReplacesLowFiveAddressBits : Obligations.XecFieldReplacesLowFiveAddressBits := by
  intro src len imm s _ _
  rw [← ivNum_toNat]
  exact ⟨wordRd_wordFields 4#3 src.num len imm, s.fieldSrc src len, _, extractField_bits _ _ _, rfl,
    replaceLow5_sum5_toNat .., rfl, execXecV_oneRead rfl, State.afterRead_frame s src.bank⟩

/-! ## NZT (R200, R201) -/

theorem encode_nztR_toNat (src : SReg) (imm : BitVec 8) :
    (encode (.nztR src imm)).toNat = 5 * 8192 + src.num.toNat * 256 + imm.toNat :=
  wordI8_toNat 5#3 src.num imm

section
variable (s : State) (v : Byte) (target : Addr)

theorem State.jumpIfNonzero_taken (h : v ≠ 0#8) : (s.jumpIfNonzero v target).pc = target :=
  if_neg h

theorem State.jumpIfNonzero_untaken (h : v = 0#8) :
    (s.jumpIfNonzero v target).pc = s.pc + 1#16 :=
  if_pos h

end

/-- Settles O40: the target keeps the page of `ar`. -/
theorem nztRegisterJumpsInsideThePage : Obligations.NztRegisterJumpsInsideThePage := by
  intro src imm s
  refine ⟨encode_nztR_toNat src imm, s.jumpIfNonzero (s.readSrc src) (replaceLow8 s.ar imm), rfl,
    fun h => ?_, State.jumpIfNonzero_untaken _ _ _, rfl, fun _ => rfl, rfl,
    fun _ => rfl, fun _ => rfl, rfl, fun _ => rfl, rfl, rfl, rfl⟩
  rw [State.jumpIfNonzero_taken _ _ _ h, replaceLow8_toNat]

/-- Settles O41: the read comes before the jump, taken or not. -/
theorem nztFieldJumpsInsideTheBlock : Obligations.NztFieldJumpsInsideTheBlock := by
  intro src len imm s
  rw [← ivNum_toNat]
  refine ⟨wordRd_wordFields 5#3 src.num len imm, s.fieldSrc src len,
    (s.afterRead src.bank).jumpIfNonzero (s.fieldSrc src len) (replaceLow5 s.ar imm),
    extractField_bits _ _ _, rfl, fun h => ?_, State.jumpIfNonzero_untaken _ _ _,
    rfl, execNztV_oneRead rfl, State.afterRead_frame s src.bank⟩
  rw [State.jumpIfNonzero_taken _ _ _ h, replaceLow5_toNat]

/-! ## CALL and RET (R202, R203) -/

section
variable {s : State}

theorem exec_call_of_lt (imm : BitVec 8) (h : s.stk.length < 8) :
    exec (.call imm) s =
      .next ((s.pushStk (s.pc + 1#16)).jumpTo (callTarget s.regs.aux imm)) :=
  if_pos h

theorem exec_call_of_ge (imm : BitVec 8) (h : 8 ≤ s.stk.length) :
    exec (.call imm) s = .fault .callStackOverflow :=
  if_neg (Nat.not_lt.2 h)

theorem exec_ret_of_append {rest : List Addr} {a : Addr} (h : s.stk = rest ++ [a]) :
    exec .ret s = .next ({ s with stk := rest }.jumpTo a) := by
  simp [exec, execRet, State.popStk, h]

theorem exec_ret_of_nil (h : s.stk = []) : exec .ret s = .fault .returnOnEmptyStack := by
  simp [exec, execRet, h]

end

/-- Settles O42: below the eighth level the push and the jump happen. -/
theorem callPushesAndJumpsToThePage : Obligations.CallPushesAndJumpsToThePage :=
  fun imm s h => ⟨wordI8_toNat 5#3 7#5 imm, _, exec_call_of_lt imm h, rfl,
    callTarget_toNat s.regs.aux imm, rfl, fun _ => rfl, rfl, fun _ => rfl, fun _ => rfl,
    fun _ => rfl, rfl, rfl, rfl⟩

/-- Settles O43: the depth test of CALL. -/
theorem ninthCallStops : Obligations.NinthCallStops :=
  fun imm _ h => exec_call_of_ge imm (Nat.le_of_eq h.symm)

/-- Settles O44: the newest entry is the last of the list. -/
theorem retPopsTheNewestEntry : Obligations.RetPopsTheNewestEntry :=
  fun _ _ _ h => ⟨rfl, _, exec_ret_of_append h, rfl, rfl, rfl, fun _ => rfl, rfl, fun _ => rfl,
    fun _ => rfl, fun _ => rfl, rfl, rfl, rfl⟩

/-- Settles O45: an empty list has no last entry. -/
theorem retOnEmptyStackStops : Obligations.RetOnEmptyStackStops := fun _ h => exec_ret_of_nil h

/-- Settles O46: the address that CALL pushes is the one RET pops. -/
theorem retUndoesCall : Obligations.RetUndoesCall :=
  fun imm s h => ⟨_, exec_call_of_lt imm h, exec_ret_of_append (rest := s.stk) rfl⟩

/-! ## JMP (R225) -/

/-- Settles O50: the target is the field, zero-extended. -/
theorem jmpLoadsTheZeroExtendedTarget : Obligations.JmpLoadsTheZeroExtendedTarget :=
  fun a s => ⟨wordA_toNat 7#3 a, s.jumpTo (jmpTarget a), rfl, jmpTarget_toNat a, rfl, fun _ => rfl,
    rfl, fun _ => rfl, fun _ => rfl, rfl, fun _ => rfl, rfl, rfl, rfl⟩

theorem runsTo_of_fixedPoint {s : State} (h : step s = .next s) (n : Nat) : RunsTo n s s := by
  induction n with
  | zero => exact runsTo_zero.2 rfl
  | succ n ih => exact runsTo_succ.2 ⟨s, h, ih⟩

theorem State.jumpTo_self {s : State} {a : Addr} (hpc : s.pc = a) (har : s.ar = a) :
    s.jumpTo a = s := by
  cases s
  cases hpc
  cases har
  rfl

/-- Settles O51: the jump writes `pc` and `ar` with what they hold. -/
theorem jmpToItselfIsAFixedPoint : Obligations.JmpToItselfIsAFixedPoint := by
  intro s a n hm hpc har hw
  have hfetch : s.fetchInstr = .ok (.jmp a) :=
    State.fetchInstr_ok.2 ⟨_, hw, decodeOfEncodeIsTheInstruction (.jmp a) rfl⟩
  have htarget : s.ar = jmpTarget a := BitVec.eq_of_toNat_eq (har.trans (jmpTarget_toNat a).symm)
  have hfix : step s = .next s :=
    calc step s
      _ = exec (.jmp a) s := step_eq_exec hm hfetch
      _ = .next (s.jumpTo (jmpTarget a)) := rfl
      _ = .next s := by rw [State.jumpTo_self (hpc.trans htarget) htarget]
  exact ⟨hfix, runsTo_of_fixedPoint hfix n⟩

/-! ## Reads that differ (R53) -/

/-- A state in which the environment answers 0 and then 1. -/
def zeroThenOne : State := { State.reset with ioIn := [0#8, 1#8] }

/-- Settles O35: the answers are the environment's, not a function of the address. -/
theorem twoReadsOfOneAddressMayDiffer : Obligations.TwoReadsOfOneAddressMayDiffer :=
  ⟨zeroThenOne, _, _, rfl, rfl, rfl, by decide⟩

end Sys2Proof.Machine

/-! PROOF. The shadow of an XEC (45_xec.md R192 to R194): a chain of XECs keeps `pc`, so what
runs at its end continues after the first XEC, unless it jumps. -/

namespace Sys2Proof.Machine

section
variable {s u t : State} {k : Nat}

/-- A chain of `k + 1` XECs is an XEC and a chain of `k`. -/
theorem xecRun_succ (h : xecRun (k + 1) s = some u) :
    ∃ i t, s.fetchInstr = .ok i ∧ isXec i = true ∧ step s = .next t ∧ xecRun k t = some u := by
  unfold xecRun at h
  split at h
  · next i hi =>
    split at h
    · next hx =>
      split at h
      · next t ht => exact ⟨i, t, hi, hx, ht, h⟩
      · cases h
      · cases h
    · cases h
  · cases h

/-- A chain of XECs keeps `pc`, and lists no Miss level where none was listed. -/
theorem xecRun_keeps_pc (hm : s.miss = []) (h : xecRun k s = some u) :
    u.miss = [] ∧ u.pc = s.pc := by
  induction k generalizing s with
  | zero =>
    cases h
    exact ⟨hm, rfl⟩
  | succ k ih =>
    obtain ⟨i, t, hi, hx, ht, hrun⟩ := xecRun_succ h
    rw [step_eq_exec hm hi] at ht
    obtain ⟨hmiss, hpc⟩ := ih ((exec_changesOnly ht).miss.trans hm) hrun
    exact ⟨hmiss, hpc.trans (exec_xec_pc ht hx)⟩

end

/-- Settles O38: `pc` is still that of the first XEC, and the target falls through. -/
theorem xecTargetReturnsPastTheFirstXec : Obligations.XecTargetReturnsPastTheFirstXec := by
  intro k s u t i hm hpc hrun hi hx hj ht
  obtain ⟨hmiss, hupc⟩ := xecRun_keeps_pc hm hrun
  rw [step_eq_exec hmiss hi] at ht
  obtain ⟨htpc, htar⟩ := exec_fallsThrough ht hx hj
  have hnext : t.pc = s.ar + 1#16 := by rw [htpc, hupc, hpc]
  exact ⟨hnext, htar.trans hnext⟩

/-- The one byte of which every bit is given is that byte. -/
theorem fieldBits_unique {raw v v' : Byte} {bit len : BitVec 3} (h : FieldBits raw bit len v)
    (h' : FieldBits raw bit len v') : v = v' :=
  BitVec.eq_of_getLsbD_eq fun k hk => (h k hk).trans (h' k hk).symm

/-- Settles O52: `pc` is still that of the first XEC, and the untaken NZT adds 1 to it. -/
theorem untakenNztReturnsPastTheFirstXec : Obligations.UntakenNztReturnsPastTheFirstXec := by
  intro k s u hm hpc hrun
  obtain ⟨hmiss, hupc⟩ := xecRun_keeps_pc hm hrun
  have hnext : u.pc + 1#16 = s.ar + 1#16 := by rw [hupc, hpc]
  constructor
  · intro src imm hi hzero
    obtain ⟨-, t, ht, -, huntaken, har, -⟩ := nztRegisterJumpsInsideThePage src imm u
    have htpc := (huntaken hzero).trans hnext
    exact ⟨t, (step_eq_exec hmiss hi).trans ht, htpc, har.trans htpc⟩
  · intro src len imm hi hzero
    obtain ⟨-, v, t, hv, ht, -, huntaken, har, -⟩ := nztFieldJumpsInsideTheBlock src len imm u
    have htpc := (huntaken (fieldBits_unique hv hzero)).trans hnext
    exact ⟨t, (step_eq_exec hmiss hi).trans ht, htpc, har.trans htpc⟩

/-! ## Jumps after one XEC (R193) -/

/-- An XEC names an address in the 256-word page of its own (R190, R191). -/
theorem exec_xec_page {i : Instr} {s t : State} (h : exec i s = .next t) (hx : isXec i = true) :
    t.ar.toNat / 256 = s.ar.toNat / 256 := by
  cases i with
  | xecR src imm =>
    cases h
    rw [State.setAr_ar, replaceLow8_add_toNat]
    omega
  | xecV src len imm =>
    cases h
    rw [State.setAr_ar, replaceLow5_sum5_toNat]
    omega
  | _ => cases hx

theorem exec_xec_keeps_regs {i : Instr} {s t : State} (h : exec i s = .next t)
    (hx : isXec i = true) : KeepsRegs s t := fun r =>
  (exec_changesOnly h).regs r (by cases i with
    | xecR | xecV => exact nofun
    | _ => cases hx)

theorem exec_xec_keeps_stk {i : Instr} {s t : State} (h : exec i s = .next t)
    (hx : isXec i = true) : KeepsStk s t :=
  (exec_changesOnly h).stk (by cases i with
    | xecR | xecV => rfl
    | _ => cases hx)

/-- Settles O39: after the XEC the page, the registers, the stack and `pc` are those of the XEC. -/
theorem jumpsInTheShadowOfAnXec : Obligations.JumpsInTheShadowOfAnXec := by
  intro s u hm hpc hrun
  obtain ⟨hmiss, hupc⟩ := xecRun_keeps_pc hm hrun
  obtain ⟨x, u', hx, hisx, hstep, hu⟩ := xecRun_succ hrun
  cases hu
  rw [step_eq_exec hm hx] at hstep
  refine ⟨fun a hi => ?_, fun src imm hi hnz => ?_, fun imm hi hlt => ?_⟩
  · obtain ⟨-, t, ht, htpc, har, -⟩ := jmpLoadsTheZeroExtendedTarget a u
    exact ⟨t, (step_eq_exec hmiss hi).trans ht, htpc, har⟩
  · obtain ⟨-, t, ht, htaken, -, har, -⟩ := nztRegisterJumpsInsideThePage src imm u
    exact ⟨t, (step_eq_exec hmiss hi).trans ht,
      by rw [htaken hnz, exec_xec_page hstep hisx], har⟩
  · have hstk : u.stk = s.stk := exec_xec_keeps_stk hstep hisx
    obtain ⟨-, t, ht, htstk, htpc, har, -⟩ := callPushesAndJumpsToThePage imm u (hstk ▸ hlt)
    exact ⟨t, (step_eq_exec hmiss hi).trans ht, by rw [htstk, hstk, hupc, hpc],
      by rw [htpc, exec_xec_keeps_regs hstep hisx], har⟩

end Sys2Proof.Machine
